-- ==== Sys2Proof/Word.lean ====
section
/-! DEFINITION. Bytes, the two widths, the two port names and the command packet. -/

namespace Sys2Proof

/-- One byte of `Mem` (R50, R53). -/
abbrev Byte := BitVec 8

/-- The two named width parameters (R7, D2). An index, a length, a count or the capacity is a natural number below
`2^w`, an address or a handle one below `2^aw`: R9's "non-negative mathematical integers" in registers of a stated
width, with no wrap-around in any rule. No type and no rule fixes either width (log 1). -/
structure Widths where
  w : Nat
  aw : Nat
  deriving DecidableEq, Repr, Inhabited

/-- The first value a `W`-bit register cannot hold (R9). -/
def Widths.wordSize (ws : Widths) : Nat := 2 ^ ws.w

/-- The first value an `AW`-bit register cannot hold (R9), and how many bytes `Mem` has (R50). -/
def Widths.memSize (ws : Widths) : Nat := 2 ^ ws.aw

/-- The default of R7 and D2. -/
def Widths.default : Widths := { w := 32, aw := 32 }

/-- The two command ports: `P` (number 0, the producer's) and `C` (number 1, the consumer's) (R32). -/
inductive Port where
  | P
  | C
  deriving DecidableEq, Repr, Inhabited

/-- The opposite port. -/
def Port.other : Port → Port
  | .P => .C
  | .C => .P

/-- One command packet, delivered atomically at issue: the command word and three operands (R80). `a0` is an address,
`a1` and `a2` are lengths. -/
structure Packet where
  cw : BitVec 32
  a0 : Nat
  a1 : Nat
  a2 : Nat
  deriving DecidableEq, Repr, Inhabited

end Sys2Proof
end

