-- ==== Sys2Proof/Config.lean ====
section
/-! DEFINITION. The turns of the agents, and what the spec leaves open, as constants with no body: nothing in Lean can evaluate them, so a claim holds whatever they are. The two widths of R7 are data (Word.lean, Machine/State.lean). -/

namespace Sys2Proof

/-- Which index a snapshot loads first (R7, R16). -/
inductive SnapOrder where
  | wFirst
  | rFirst
  deriving DecidableEq, Repr, Inhabited

/-- What a successful INIT does to the notification hook (R7, R110). -/
inductive NotifyPolicy where
  | keep
  | clear
  deriving DecidableEq, Repr, Inhabited

/-- One turn of one agent (R204): what may happen between any two micro-steps of a port (R13).
`issue` is an agent's issue step (R32), `run` a port sequencer's next micro-step (R34), `outsideWrite` and
`outsideRead` one byte access of an out-of-band agent at any address (R36; log 23), `hwReset` the hardware reset input
(R220). -/
inductive Turn where
  | issue (p : Port) (packet : Packet)
  | run (p : Port)
  | outsideWrite (a : Nat) (v : Byte)
  | outsideRead (a : Nat)
  | hwReset
  deriving DecidableEq, Repr, Inhabited

namespace Config

/-- The open parameter `SNAP_ORDER` (R7, D13): free. DESIGN CHOICE (log 2), safe. -/
opaque snapOrder : SnapOrder

/-- The open parameter `INIT_NOTIFY_POLICY` (R7, D12): free. DESIGN CHOICE (log 3), safe. -/
opaque initNotifyPolicy : NotifyPolicy

/-- What the platform left in a byte of `Mem` that nothing has written since (R39, U6): free.
DESIGN CHOICE (log 8), safe. -/
opaque platformByte : Nat → Byte

/-- Who moves when the schedule in the state is used up (R13: "none is imposed by the engine itself"): free at
every value of the counter. DESIGN CHOICE (log 4), safe. -/
opaque freeTurn : Nat → Turn

end Config

end Sys2Proof
end

