-- ==== Sys2Proof/Syntax.lean ====
section
/-! DEFINITION. The sixteen decoded commands (R82, one constructor for each row of spec/opcode_table.json) and the event record (R91, R92). -/

namespace Sys2Proof

/-- A decoded command. A pointer operand is `some address` when present (`PV = 1`) and `none` when absent (`PV = 0`,
R83); a length, capacity or skip count is the `W`-bit operand as it is. Operand order is R88's. That an operand fits
its register is `Instr.inWidth`. -/
inductive Instr where
  | init (region : Option Nat) (cap : Nat)
  | isready
  | detach
  | setntfy (handle : Option Nat)
  | free
  | used
  | write (src : Option Nat) (len : Nat)
  | read (dst : Option Nat) (len : Nat)
  | peek (dst : Option Nat) (len : Nat) (skip : Nat)
  | skip (len : Nat)
  | advance (len : Nat)
  | lraddr
  | lrlen
  | lwaddr
  | lwlen
  | reset
  deriving DecidableEq, Repr

/-- The three event kinds (R91). -/
inductive EventKind where
  | write
  | read
  | reset
  deriving DecidableEq, Repr

/-- One record of the event output: an `AW`-bit handle, a `W`-bit count (R37, R92). -/
structure Event where
  port : Port
  handle : Nat
  kind : EventKind
  count : Nat
  deriving DecidableEq, Repr

end Sys2Proof
end

