-- ==== Sys2Proof/WellFormed.lean ====
section
/-! DEFINITION. What the spec asks of a command's operands by themselves: operands that fit their registers (R9, R80) and addresses that do not wrap past `2^AW` (R51, R69, R231). -/

namespace Sys2Proof

/-- `count` bytes from `a` end inside the address space (R51, R69). -/
def fitsMem (ws : Widths) (a : Nat) (count : Nat) : Bool :=
  a + count ≤ ws.memSize

/-- A pointer's address fits `AW` bits. -/
def ptrInWidth (ws : Widths) : Option Nat → Bool
  | none => true
  | some a => a < ws.memSize

/-- A length fits `W` bits. -/
def lenInWidth (ws : Widths) (len : Nat) : Bool := len < ws.wordSize

/-- A present pointer's `count` bytes fit; an absent pointer names no bytes. -/
def ptrFits (ws : Widths) : Option Nat → Nat → Bool
  | none, _ => true
  | some a, count => fitsMem ws a count

/-- The operands fit the packet's fields (R80). -/
def Instr.inWidth (ws : Widths) : Instr → Bool
  | .init region cap => ptrInWidth ws region && lenInWidth ws cap
  | .isready => true
  | .detach => true
  | .setntfy handle => ptrInWidth ws handle
  | .free => true
  | .used => true
  | .write src len => ptrInWidth ws src && lenInWidth ws len
  | .read dst len => ptrInWidth ws dst && lenInWidth ws len
  | .peek dst len past => ptrInWidth ws dst && lenInWidth ws len && lenInWidth ws past
  | .skip len => lenInWidth ws len
  | .advance len => lenInWidth ws len
  | .lraddr => true
  | .lrlen => true
  | .lwaddr => true
  | .lwlen => true
  | .reset => true

/-- Agents bind only regions that do not wrap (R51, U3) and hand over only buffers that do not (R231, U4). -/
def Instr.buffersFit (ws : Widths) : Instr → Bool
  | .init region cap => ptrFits ws region cap
  | .isready => true
  | .detach => true
  | .setntfy _ => true
  | .free => true
  | .used => true
  | .write src len => ptrFits ws src len
  | .read dst len => ptrFits ws dst len
  | .peek dst len _ => ptrFits ws dst len
  | .skip _ => true
  | .advance _ => true
  | .lraddr => true
  | .lrlen => true
  | .lwaddr => true
  | .lwlen => true
  | .reset => true

/-- A command an engine of these widths can be given, with buffers that do not wrap. -/
def Instr.wellFormed (ws : Widths) (i : Instr) : Bool := i.inWidth ws && i.buffersFit ws

end Sys2Proof
end

