-- ==== Sys2Proof/Decode.lean ====
section
/-! DEFINITION. What a port receives of a packet (R80); the decoder (R81, R83, R87), total on every packet and rejecting by name; the opcode table (R82); the encoder; the event record's wire form (R92). -/

namespace Sys2Proof

/-- What a port of these widths receives of a packet: `AW` bits of `A0`, `W` bits of `A1` and `A2` (R80; log 1). -/
def Packet.onWires (p : Packet) (ws : Widths) : Packet :=
  { p with a0 := p.a0 % ws.memSize, a1 := p.a1 % ws.wordSize, a2 := p.a2 % ws.wordSize }

/-- Why a command word is illegal (R85). -/
inductive Illegal where
  /-- a bit of `RSV` is 1 -/
  | reservedBits
  /-- `OPC` is `0x00` or in `0x11 .. 0xFF` -/
  | unknownOpcode
  /-- `PV = 1` on a command whose `PV` must be 0 -/
  | pointerNotAllowed
  deriving DecidableEq, Repr

/-- `OPC = CW[7:0]` (R81). -/
def opcField (cw : BitVec 32) : Nat := (cw.extractLsb' 0 8).toNat

/-- `PV = CW[8]` (R81). -/
def pvField (cw : BitVec 32) : Bool := cw.getLsbD 8

/-- `RSV = CW[31:9]` (R81). -/
def rsvField (cw : BitVec 32) : Nat := (cw.extractLsb' 9 23).toNat

/-- The pointer operand (`PV`, `A0`): absent when `PV = 0`, and `A0` is then ignored (R83). -/
def ptrOperand (pv : Bool) (a0 : Nat) : Option Nat :=
  if pv then some a0 else none

/-- A command that takes no pointer operand: `PV` must be 0 (R81, R87). -/
def noPointer (pv : Bool) (i : Instr) : Except Illegal Instr :=
  if pv then .error .pointerNotAllowed else .ok i

/-- The row of R82 with this `OPC`, on the packet's operands. -/
def decodeOpc (opc : Nat) (pv : Bool) (p : Packet) : Except Illegal Instr :=
  match opc with
  | 0x01 => .ok (.init (ptrOperand pv p.a0) p.a1)
  | 0x02 => noPointer pv .isready
  | 0x03 => noPointer pv .detach
  | 0x04 => .ok (.setntfy (ptrOperand pv p.a0))
  | 0x05 => noPointer pv .free
  | 0x06 => noPointer pv .used
  | 0x07 => .ok (.write (ptrOperand pv p.a0) p.a1)
  | 0x08 => .ok (.read (ptrOperand pv p.a0) p.a1)
  | 0x09 => .ok (.peek (ptrOperand pv p.a0) p.a1 p.a2)
  | 0x0A => noPointer pv (.skip p.a1)
  | 0x0B => noPointer pv (.advance p.a1)
  | 0x0C => noPointer pv .lraddr
  | 0x0D => noPointer pv .lrlen
  | 0x0E => noPointer pv .lwaddr
  | 0x0F => noPointer pv .lwlen
  | 0x10 => noPointer pv .reset
  | _ => .error .unknownOpcode

/-- The decoding algorithm of R87. -/
def decode (p : Packet) : Except Illegal Instr :=
  if rsvField p.cw = 0 then decodeOpc (opcField p.cw) (pvField p.cw) p
  else .error .reservedBits

/-- A packet as one number: `CW` in its lowest 32 bits, then `AW` bits of `A0`, `W` of `A1`, `W` of `A2`. The spec gives
a packet no bit order beyond the command word: DESIGN CHOICE (log 20), safe. -/
def packetOfNat (ws : Widths) (x : Nat) : Packet :=
  { cw := BitVec.ofNat 32 x
    a0 := x / 2 ^ 32 % ws.memSize
    a1 := x / 2 ^ (32 + ws.aw) % ws.wordSize
    a2 := x / 2 ^ (32 + ws.aw + ws.w) % ws.wordSize }

/-- The command the decoder reads from a packet whose lowest `nbits` bits are `w` and whose others are 0, at the
default widths. -/
def decodeTableWord (nbits w : Nat) : Option Instr :=
  match decode (packetOfNat .default (w % 2 ^ nbits)) with
  | .ok i => some i
  | .error _ => none

/-- One row of R82's table: a word `cw` selects the row when `cw & mask = pattern`. -/
structure OpcodeRow where
  mnemonic : String
  pattern : BitVec 32
  mask : BitVec 32
  deriving DecidableEq, Repr

/-- R82's table, row by row. -/
def opcodeTable : List OpcodeRow :=
  [ ⟨"INIT", 0x00000001, 0xFFFFFEFF⟩,
    ⟨"ISREADY", 0x00000002, 0xFFFFFFFF⟩,
    ⟨"DETACH", 0x00000003, 0xFFFFFFFF⟩,
    ⟨"SETNTFY", 0x00000004, 0xFFFFFEFF⟩,
    ⟨"FREE", 0x00000005, 0xFFFFFFFF⟩,
    ⟨"USED", 0x00000006, 0xFFFFFFFF⟩,
    ⟨"WRITE", 0x00000007, 0xFFFFFEFF⟩,
    ⟨"READ", 0x00000008, 0xFFFFFEFF⟩,
    ⟨"PEEK", 0x00000009, 0xFFFFFEFF⟩,
    ⟨"SKIP", 0x0000000A, 0xFFFFFFFF⟩,
    ⟨"ADVANCE", 0x0000000B, 0xFFFFFFFF⟩,
    ⟨"LRADDR", 0x0000000C, 0xFFFFFFFF⟩,
    ⟨"LRLEN", 0x0000000D, 0xFFFFFFFF⟩,
    ⟨"LWADDR", 0x0000000E, 0xFFFFFFFF⟩,
    ⟨"LWLEN", 0x0000000F, 0xFFFFFFFF⟩,
    ⟨"RESET", 0x00000010, 0xFFFFFFFF⟩ ]

/-- The table's name of a command. -/
def Instr.mnemonic : Instr → String
  | .init _ _ => "INIT"
  | .isready => "ISREADY"
  | .detach => "DETACH"
  | .setntfy _ => "SETNTFY"
  | .free => "FREE"
  | .used => "USED"
  | .write _ _ => "WRITE"
  | .read _ _ => "READ"
  | .peek _ _ _ => "PEEK"
  | .skip _ => "SKIP"
  | .advance _ => "ADVANCE"
  | .lraddr => "LRADDR"
  | .lrlen => "LRLEN"
  | .lwaddr => "LWADDR"
  | .lwlen => "LWLEN"
  | .reset => "RESET"

/-- The row selects the word (R82). -/
def OpcodeRow.selects (row : OpcodeRow) (cw : BitVec 32) : Bool :=
  cw &&& row.mask = row.pattern

/-- A packet with this opcode, pointer operand, length and skip count; an absent pointer and an unused operand
are written as 0 (R88). -/
def encodeFields (opc : Nat) (ptr : Option Nat) (a1 a2 : Nat) : Packet :=
  { cw := BitVec.ofNat 32 (opc + if ptr.isSome then 0x100 else 0)
    a0 := ptr.getD 0
    a1 := a1
    a2 := a2 }

/-- The packet of a command (R81, R82, R88). -/
def encode : Instr → Packet
  | .init region cap => encodeFields 0x01 region cap 0
  | .isready => encodeFields 0x02 none 0 0
  | .detach => encodeFields 0x03 none 0 0
  | .setntfy handle => encodeFields 0x04 handle 0 0
  | .free => encodeFields 0x05 none 0 0
  | .used => encodeFields 0x06 none 0 0
  | .write src len => encodeFields 0x07 src len 0
  | .read dst len => encodeFields 0x08 dst len 0
  | .peek dst len skip => encodeFields 0x09 dst len skip
  | .skip len => encodeFields 0x0A none len 0
  | .advance len => encodeFields 0x0B none len 0
  | .lraddr => encodeFields 0x0C none 0 0
  | .lrlen => encodeFields 0x0D none 0 0
  | .lwaddr => encodeFields 0x0E none 0 0
  | .lwlen => encodeFields 0x0F none 0 0
  | .reset => encodeFields 0x10 none 0 0

/-- The port's number on the wire (R92). -/
def encodePort : Port → BitVec 1
  | .P => 0
  | .C => 1

/-- The kind's number on the wire; 3 is never emitted (R92). -/
def encodeKind : EventKind → BitVec 2
  | .write => 0
  | .read => 1
  | .reset => 2

/-- An event record's four wire fields (port, handle, kind, count); the handle is `AW` bits, the count `W` (R92; log
22). -/
def encodeEvent (e : Event) : BitVec 1 × Nat × BitVec 2 × Nat :=
  (encodePort e.port, e.handle, encodeKind e.kind, e.count)

end Sys2Proof
end

