-- ==== Sys2Proof/Machine/State.lean ====
section
/-! DEFINITION. The state of the ring buffer engine (R20: "All the state there is"), the reasons a step can stop, and the state after hardware reset (R39). -/

namespace Sys2Proof.Machine

/-- A port's sequencer: `idle`, or `run k` when micro-step `μk` of the latched command is next (R34). -/
inductive Phase where
  | idle
  | run (k : Nat)
  deriving DecidableEq, Repr

/-- The hidden temporaries of one port (R35): `b` of `AW` bits, `t` of 8, the others of `W`. `cap` is the temporary the
spec calls `N`. -/
structure Temps where
  b : Nat
  cap : Nat
  sw : Nat
  sr : Nat
  n : Nat
  c1 : Nat
  i : Nat
  t : Byte
  s0 : Nat
  deriving DecidableEq, Repr

/-- The registers of one command port (R32, R33, R34, R35): `a0` and `r1` of `AW` bits, `a1`, `a2`, `r0` of `W`. -/
structure PortRegs where
  cw : BitVec 32
  a0 : Nat
  a1 : Nat
  a2 : Nat
  r0 : Nat
  r1 : Nat
  av : Bool
  phase : Phase
  tmp : Temps
  deriving DecidableEq, Repr

/-- The bytes of `Mem` that something has written since the platform handed it over: (address, byte) pairs,
addresses strictly rising. An address that is not listed holds no known byte (log 8). -/
abbrev Memory := List Host.Cell

/-- The whole state. `widths` are the parameters `W` and `AW` of R7, which nothing writes (log 1). `bound` to `nhnd`
are the shared registers (R21 to R26), `portP` and `portC` the two ports, `mem` and `evq` the state outside the engine
(R36, R37). `cur`, `sched` and `tick` are the model's own (log 4): whose micro-step this is, the turns still to come,
and the counter of the turns taken. -/
structure State where
  widths : Widths
  bound : Bool
  base : Nat
  cap : Nat
  wpos : Nat
  rpos : Nat
  nen : Bool
  nhnd : Nat
  portP : PortRegs
  portC : PortRegs
  mem : Memory
  evq : List Event
  cur : Port
  sched : List Turn
  tick : Nat
  deriving DecidableEq, Repr

/-- The engine raises no fault (R190). These two are the model's, for states that no run reaches (log 17). -/
inductive Fault where
  /-- Raised by every meaning when the port's `PHASE` names a micro-step the command does not have (or the port is
  idle). Safe: no run reaches such a state. -/
  | noSuchMicroStep
  /-- Raised by `MemRead` and `MemWrite` at an address that is not below `2^AW` (R14, R50). Safe: the checks of
  INIT and of the copy commands' plan keep every run from it. -/
  | outsideMem (a : Nat)
  deriving DecidableEq, Repr

/-- The situations the spec gives no meaning (spec/93_implementation_defined.md, treatment `refuse`). -/
inductive Refusal where
  /-- Raised by exec for a command that has no meaning yet; none is left. Safe. -/
  | notModelled (mnemonic : String)
  /-- Raised by INIT, DETACH and RESET at the micro-step that changes the binding or the indices, when the other
  port's command is past its first micro-step (U2, R226; log 10). Safe. -/
  | notQuiescent
  /-- Raised by INIT when the region would wrap past `2^AW` (U3, R51; log 11). Safe. -/
  | regionWraps
  /-- Raised by WRITE, READ and PEEK when the caller's buffer of `n` bytes wraps past `2^AW` (U4, R69; log 12).
  Safe. -/
  | bufferWraps
  /-- Raised by WRITE, READ and PEEK when the caller's buffer of `n` bytes overlaps the region (U4, R69; log 12).
  Safe. -/
  | bufferOverlapsRegion
  deriving DecidableEq, Repr

/-- The answer of a meaning. -/
abbrev Result := Host.Outcome State Fault Refusal

/-- Temporaries after hardware reset: R39 says unspecified; zero is a DESIGN CHOICE (log 6), unsafe. -/
def Temps.reset : Temps :=
  { b := 0, cap := 0, sw := 0, sr := 0, n := 0, c1 := 0, i := 0, t := 0, s0 := 0 }

/-- A port after hardware reset: `PHASE = IDLE` (R39); the rest is unspecified there and zero is a DESIGN CHOICE
(log 6), unsafe. -/
def PortRegs.reset : PortRegs :=
  { cw := 0, a0 := 0, a1 := 0, a2 := 0, r0 := 0, r1 := 0, av := false, phase := .idle, tmp := Temps.reset }

/-- A machine of these widths right after hardware reset (R39): `BOUND = 0`, `NEN = 0`, both ports `IDLE`, `EVQ`
empty. The other registers are unspecified there; zero is a DESIGN CHOICE (log 6), unsafe. No byte of `Mem` is known
(log 8). `cur`, `sched` and `tick` are the model's own (log 4). -/
def State.resetAt (ws : Widths) : State :=
  { widths := ws, bound := false, base := 0, cap := 0, wpos := 0, rpos := 0, nen := false, nhnd := 0,
    portP := PortRegs.reset, portC := PortRegs.reset, mem := [], evq := [],
    cur := .P, sched := [], tick := 0 }

/-- The machine of the default widths (R7, D2; log 1) right after hardware reset. -/
def State.reset : State := State.resetAt .default

end Sys2Proof.Machine
end

