-- ==== Sys2Proof/Machine/Arith.lean ====
section
/-! DEFINITION. The pure functions of the engine over natural numbers: used and free space, wrapped advance, linear lengths. -/

namespace Sys2Proof.Machine

/-- `U(w, r, N)` (R130). -/
def usedSpace (w r N : Nat) : Nat :=
  if w = r then 0 else if r < w then w - r else N - (r - w)

/-- `F(w, r, N) = N − 1 − U(w, r, N)` (R131). -/
def freeSpace (w r N : Nat) : Nat := N - 1 - usedSpace w r N

/-- `adv(x, k, N)`: one conditional subtraction (R136). -/
def adv (x k N : Nat) : Nat := if x + k < N then x + k else x + k - N

/-- `LR(w, r, N)` (R170). -/
def linRead (w r N : Nat) : Nat := if r ≤ w then w - r else N - r

/-- `LW(w, r, N)` (R171). -/
def linWrite (w r N : Nat) : Nat :=
  if r ≤ w then (if r = 0 then N - w - 1 else N - w) else r - w - 1

/-- Bytes of the first segment: up to the physical end (R140). -/
def firstSegment (s n N : Nat) : Nat := min (N - s) n

/-- The region address of byte `i` of a two-segment copy that starts at index `s` of the region at `b` and has
`c1` bytes in its first segment (R140, R51). -/
def segAddr (b s c1 i : Nat) : Nat := if i < c1 then b + s + i else b + (i - c1)

/-- `x` bytes from `a` and `y` bytes from `b` share an address (R69). -/
def rangesOverlap (a x b y : Nat) : Bool := decide (a < b + y) && decide (b < a + x)

end Sys2Proof.Machine
end

