-- ==== Sys2Proof/Machine/Operands.lean ====
section
/-! DEFINITION. The operand forms a command uses: the pointer operand, the length operand, the caller's buffer (R83, R115). -/

namespace Sys2Proof.Machine

/-- The address of a present pointer. An absent one never gets here: the argument check ends the command (R115). -/
def ptrAddr (p : Option Nat) : Nat := (p.getD 0)

/-- The arguments of WRITE, READ and PEEK are valid: `PV = 1` and `A1 ≠ 0` (R115). -/
def transferArgsOk (p : Option Nat) (len : Nat) : Bool := p.isSome && decide (len ≠ 0)

/-- The argument of SKIP and ADVANCE is valid: `A1 ≠ 0` (R115). -/
def countArgOk (len : Nat) : Bool := decide (len ≠ 0)

/-- The address of byte `i` of the caller's buffer: `A0 + i` (R140). -/
def bufAddr (p : Option Nat) (i : Nat) : Nat := ptrAddr p + i

/-- `U` of a port's snapshot and latched capacity (R134). -/
def Temps.usedSpace (t : Temps) : Nat := Machine.usedSpace t.sw t.sr t.cap

/-- `F` of a port's snapshot and latched capacity (R134). -/
def Temps.freeSpace (t : Temps) : Nat := Machine.freeSpace t.sw t.sr t.cap

/-- `LR` of a port's snapshot and latched capacity (R173). -/
def Temps.linRead (t : Temps) : Nat := Machine.linRead t.sw t.sr t.cap

/-- `LW` of a port's snapshot and latched capacity (R175). -/
def Temps.linWrite (t : Temps) : Nat := Machine.linWrite t.sw t.sr t.cap

end Sys2Proof.Machine
end

