-- ==== Sys2Proof/Machine/Flags.lean ====
section
/-! DEFINITION. The one flag of the engine, `AV`, and the result fields it goes with (R33, R84). -/

namespace Sys2Proof.Machine

/-- `AV`: 1 when the command has an address result, else 0 (R33, R84). -/
def avFlag (result : Option Nat) : Bool := result.isSome

/-- `R1`: the address result, or 0 when there is none (R84). -/
def addrResult (result : Option Nat) : Nat := result.getD 0

/-- A boolean result in `R0` (R84). -/
def boolResult (x : Bool) : Nat := if x then 1 else 0

end Sys2Proof.Machine
end

