-- ==== Sys2Proof/Machine/Ops.lean ====
section
/-! DEFINITION. The named operations over memory, registers, ports and events, and the shapes of micro-step that several commands share. The engine has no exception, so there is no operation that takes one and none that returns from one (R190, R200). -/

namespace Sys2Proof.Machine

/-! ### Memory -/

/-- The byte something has written at `x`, if any has. -/
def Memory.byte? : Memory → Nat → Option Byte
  | [], _ => none
  | (a, v) :: m, x => if a = x then some v else Memory.byte? m x

/-- The byte at `x`: the last one written there, or what the platform left (R57, R39, U6; log 8). -/
def Memory.load (m : Memory) (x : Nat) : Byte := (Memory.byte? m x).getD (Config.platformByte x)

/-- Write byte `v` at `x`, keeping the addresses in rising order. -/
def Memory.store : Memory → Nat → Byte → Memory
  | [], x, v => [(x, v)]
  | (a, u) :: m, x, v =>
    if x < a then (x, v) :: (a, u) :: m
    else if x = a then (x, v) :: m
    else (a, u) :: Memory.store m x v

/-- Addresses strictly rising from `lo`. -/
def Memory.wfFrom : Nat → Memory → Bool
  | _, [] => true
  | lo, (a, _) :: m => decide (lo ≤ a) && Memory.wfFrom (a + 1) m

/-- The canonical form of memory. An unlisted address has no known byte, so no listed byte equals what an unlisted
address holds. -/
def Memory.wf (m : Memory) : Bool := Memory.wfFrom 0 m

/-- Every listed address exists: it is below `size` (R50). -/
def Memory.below (size : Nat) (m : Memory) : Bool := m.all (fun c => decide (c.1 < size))

/-! ### Ports -/

/-- The index `k` of the micro-step a port is at; 0 when it is idle. -/
def Phase.mu : Phase → Nat
  | .idle => 0
  | .run k => k

/-- The next micro-step: `RUN(k)` becomes `RUN(k + 1)` (R34). -/
def Phase.succ : Phase → Phase
  | .idle => .idle
  | .run k => .run (k + 1)

/-- Port `p`'s registers: `X[p]` (R11). -/
def State.port (s : State) : Port → PortRegs
  | .P => s.portP
  | .C => s.portC

/-- The state with port `p`'s registers replaced. -/
def State.setPort (s : State) (p : Port) (x : PortRegs) : State :=
  match p with
  | .P => { s with portP := x }
  | .C => { s with portC := x }

/-- The registers of the port whose sequencer takes this step. -/
def State.me (s : State) : PortRegs := s.port s.cur

/-- The state with those registers replaced. -/
def State.setMe (s : State) (x : PortRegs) : State := s.setPort s.cur x

/-- The registers of the opposite port. -/
def State.opposite (s : State) : PortRegs := s.port s.cur.other

/-- The micro-step the stepping port is at. -/
def State.mu (s : State) : Nat := s.me.phase.mu

/-- The packet latched on a port at issue (R32). -/
def PortRegs.packet (x : PortRegs) : Packet := { cw := x.cw, a0 := x.a0, a1 := x.a1, a2 := x.a2 }

/-- Issue on one port: latch the packet and start at `μ1` (R32). -/
def PortRegs.latch (x : PortRegs) (p : Packet) : PortRegs :=
  { x with cw := p.cw, a0 := p.a0, a1 := p.a1, a2 := p.a2, phase := .run 1 }

/-- End of a micro-step that is no `Complete`: the temporaries become `t` and the next micro-step is next (R34). -/
def State.goOn (s : State) (t : Temps) : State :=
  s.setMe { s.me with tmp := t, phase := s.me.phase.succ }

/-- `Complete(p, r0, r1, av)`: the result registers are written and the port is idle (R14, R33). -/
def State.complete (s : State) (r0 : Nat) (result : Option Nat) : State :=
  s.setMe { s.me with r0 := r0, r1 := addrResult result, av := avFlag result, phase := .idle }

/-- The zero result `Complete(p, 0, 0, 0)`. -/
def State.completeZero (s : State) : State := s.complete 0 none

/-! ### Events -/

/-- `Emit(k, c)`: append the record when `NEN = 1`; `NEN` and `NHND` are read here (R14, R197). It never stalls
(R198; log 16). -/
def State.emit (s : State) (k : EventKind) (c : Nat) : State :=
  if s.nen then { s with evq := s.evq ++ [{ port := s.cur, handle := s.nhnd, kind := k, count := c }] } else s

/-- The emit micro-step. -/
def emitStep (k : EventKind) (c : Nat) (s : State) : State := (s.emit k c).goOn s.me.tmp

/-! ### Micro-steps that commands share -/

/-- `ReadyCheck`, the first micro-step (R15). -/
def readyCheck (s : State) : State :=
  if s.bound then s.goOn { s.me.tmp with b := s.base, cap := s.cap } else s.completeZero

/-- The argument check, the second micro-step (R115, R116). -/
def argCheck (ok : Bool) (s : State) : State :=
  if ok then s.goOn s.me.tmp else s.completeZero

/-- The temporaries after the first load of a snapshot (R16). -/
def firstLoad (o : SnapOrder) (s : State) : Temps :=
  match o with
  | .wFirst => { s.me.tmp with sw := s.wpos }
  | .rFirst => { s.me.tmp with sr := s.rpos }

/-- The temporaries after the second load of a snapshot (R16). -/
def secondLoad (o : SnapOrder) (s : State) : Temps :=
  match o with
  | .wFirst => { s.me.tmp with sr := s.rpos }
  | .rFirst => { s.me.tmp with sw := s.wpos }

/-- The other port's command is past its first micro-step: it has latched the binding (R226, U2; log 10). -/
def otherInFlight (s : State) : Bool := decide (2 ≤ s.opposite.phase.mu)

/-- A query of four micro-steps: ready check, two loads, the figure computed from the snapshot (R132, R133, R173,
R175). -/
def snapshotQuery (o : SnapOrder) (figure : Temps → Nat) (s : State) : Result :=
  match s.mu with
  | 1 => .next (readyCheck s)
  | 2 => .next (s.goOn (firstLoad o s))
  | 3 => .next (s.goOn (secondLoad o s))
  | 4 => .next (s.complete (figure s.me.tmp) none)
  | _ => .fault .noSuchMicroStep

/-- A query of three micro-steps: ready check, one index load, the address of that index (R172, R174). -/
def addressQuery (load : State → Temps) (index : Temps → Nat) (s : State) : Result :=
  match s.mu with
  | 1 => .next (readyCheck s)
  | 2 => .next (s.goOn (load s))
  | 3 => .next (s.complete 0 (some (s.me.tmp.b + index s.me.tmp)))
  | _ => .fault .noSuchMicroStep

/-- `WPOS <- adv(sw, n, N)`, the one index store of WRITE and ADVANCE (R141, R161). -/
def storeWpos (s : State) : State :=
  { s with wpos := adv s.me.tmp.sw s.me.tmp.n s.me.tmp.cap }.goOn s.me.tmp

/-- `RPOS <- adv(sr, n, N)`, the one index store of READ and SKIP (R142, R160). -/
def storeRpos (s : State) : State :=
  { s with rpos := adv s.me.tmp.sr s.me.tmp.n s.me.tmp.cap }.goOn s.me.tmp

/-- The second load of SKIP and ADVANCE with the clamp attached to it (R160, R161): `n` is the length clamped to
what is available, and a count of 0 ends the command with the zero result. -/
def planCount (len : Nat) (avail : Temps → Nat) (t : Temps) (s : State) : State :=
  if min len (avail t) = 0 then (s.setMe { s.me with tmp := t }).completeZero
  else s.goOn { t with n := min len (avail t) }

/-- An index-only command of seven micro-steps (R160, R161). -/
def indexMove (o : SnapOrder) (len : Nat) (avail : Temps → Nat) (store : State → State) (k : EventKind)
    (s : State) : Result :=
  match s.mu with
  | 1 => .next (readyCheck s)
  | 2 => .next (argCheck (countArgOk len) s)
  | 3 => .next (s.goOn (firstLoad o s))
  | 4 => .next (planCount len avail (secondLoad o s) s)
  | 5 => .next (store s)
  | 6 => .next (emitStep k s.me.tmp.n s)
  | 7 => .next (s.complete s.me.tmp.n none)
  | _ => .fault .noSuchMicroStep

/-! ### The two-segment copy (R140) -/

/-- The second load of a copy command with the clamp attached to it: `t` holds the snapshot, `n` is the effective
length, `start` the first region index (R140 to R143). A length of 0 ends the command with the zero result. A buffer
of `n` bytes that wraps or overlaps the region has no meaning (U4; log 12). -/
def planCopy (buf : Option Nat) (n start : Nat) (t : Temps) (s : State) : Result :=
  if n = 0 then .next (s.setMe { s.me with tmp := t }).completeZero
  else if s.widths.memSize < ptrAddr buf + n then .refused .bufferWraps
  else if rangesOverlap (ptrAddr buf) n t.b t.cap then .refused .bufferOverlapsRegion
  else .next (s.goOn { t with n := n, c1 := firstSegment start n t.cap, i := 0 })

/-- Where in its copy loop a port is: the read or the write of byte `i`, or the `m`-th micro-step after the loop. -/
inductive CopyStage where
  | rd
  | wr
  | post (m : Nat)
  | none
  deriving DecidableEq, Repr

/-- The loop unrolled into consecutive micro-steps from `μ5` on (R34, R140): byte `i` is read at `μ(5 + 2i)` and
written at `μ(6 + 2i)`, and the loop ends at `i = n` (log 21). -/
def copyStage (k i n : Nat) : CopyStage :=
  if i < n then
    if k = 5 + 2 * i then .rd else if k = 6 + 2 * i then .wr else .none
  else if i = n ∧ 5 + 2 * n ≤ k then .post (k - (5 + 2 * n)) else .none

/-- The stage of the stepping port. -/
def State.copyStage (s : State) : CopyStage := Machine.copyStage s.mu s.me.tmp.i s.me.tmp.n

/-- `t <- MemRead(a, 1)` (R14). -/
def copyRead (a : Nat) (s : State) : Result :=
  if a < s.widths.memSize then .next (s.goOn { s.me.tmp with t := s.mem.load a }) else .fault (.outsideMem a)

/-- `MemWrite(a, 1, t)`, and the local cursor moves on (R14, R35). -/
def copyWrite (a : Nat) (s : State) : Result :=
  if a < s.widths.memSize then
    .next ({ s with mem := s.mem.store a s.me.tmp.t }.goOn { s.me.tmp with i := s.me.tmp.i + 1 })
  else .fault (.outsideMem a)

/-- The region address of byte `i` of the stepping port's copy from `start` (R140). -/
def State.regionAddr (s : State) (start : Nat) : Nat :=
  segAddr s.me.tmp.b start s.me.tmp.c1 s.me.tmp.i

/-- The caller's-buffer address of byte `i` of the stepping port's copy (R140). -/
def State.callerAddr (s : State) (buf : Option Nat) : Nat := bufAddr buf s.me.tmp.i

/-! ### Turns of the agents outside the sequencers -/

/-- An agent's issue step: enabled only when the port is idle; otherwise the port does not accept a packet and
nothing happens (R32, U18; log 14). -/
def issue (p : Port) (packet : Packet) (s : State) : State :=
  match (s.port p).phase with
  | .idle => s.setPort p ((s.port p).latch (packet.onWires s.widths))
  | .run _ => s

/-- An out-of-band agent's write of one byte (R36), at any of the `2^AW` addresses. That it runs whether or not it keeps
to the linear block last reported (R228, the second half of U6, which says to refuse it there) is a DESIGN CHOICE
(log 23), safe. -/
def outsideWrite (a : Nat) (v : Byte) (s : State) : State := { s with mem := s.mem.store (a % s.widths.memSize) v }

/-- The hardware reset input: every register as after reset, commands in flight abandoned, `EVQ` empty, `Mem` not
touched (R220, R39; log 7). The turns to come are not the hardware's and stay. -/
def hwReset (s : State) : State :=
  { State.resetAt s.widths with mem := s.mem, sched := s.sched, tick := s.tick }

/-- An illegal command word: one micro-step, the zero result (R85; log 15). -/
def execIllegal (s : State) : Result :=
  match s.mu with
  | 1 => .next s.completeZero
  | _ => .fault .noSuchMicroStep

end Sys2Proof.Machine
end

