-- ==== Sys2Proof/Machine/Accounting.lean ====
section
/-! DEFINITION. USED and FREE (spec/41_accounting.md). -/

namespace Sys2Proof.Machine

/-- USED (R132). -/
def execUsed (s : State) : Result := snapshotQuery Config.snapOrder Temps.usedSpace s

/-- FREE (R133). -/
def execFree (s : State) : Result := snapshotQuery Config.snapOrder Temps.freeSpace s

end Sys2Proof.Machine
end

