-- ==== Sys2Proof/Machine/Copy.lean ====
section
/-! DEFINITION. WRITE, READ, PEEK (spec/42_copy.md). -/

namespace Sys2Proof.Machine

/-- WRITE's effective length: `min(A1, F(sw, sr, N))` (R141). -/
def writeLength (len : Nat) (t : Temps) : Nat := min len t.freeSpace

/-- READ's effective length: `min(A1, U(sw, sr, N))` (R142). -/
def readLength (len : Nat) (t : Temps) : Nat := min len t.usedSpace

/-- PEEK's effective length past the guard: `min(A1, U(sw, sr, N) − A2)` (R143). -/
def peekLength (len skip : Nat) (t : Temps) : Nat := min len (t.usedSpace - skip)

/-- PEEK's start index: `adv(sr, A2, N)` (R143). -/
def peekStart (skip : Nat) (t : Temps) : Nat := adv t.sr skip t.cap

/-- PEEK's second load with the guard first, then the clamp (R143, C5). -/
def planPeek (dst : Option Nat) (len skip : Nat) (t : Temps) (s : State) : Result :=
  if t.usedSpace ≤ skip then .next (s.setMe { s.me with tmp := t }).completeZero
  else planCopy dst (peekLength len skip t) (peekStart skip t) { t with s0 := peekStart skip t } s

/-- WRITE from `μ5` on: the copy, then the index store, the event and the result (R141). -/
def writeLoop (src : Option Nat) (s : State) : Result :=
  match s.copyStage with
  | .rd => copyRead (s.callerAddr src) s
  | .wr => copyWrite (s.regionAddr s.me.tmp.sw) s
  | .post 0 => .next (storeWpos s)
  | .post 1 => .next (emitStep .write s.me.tmp.n s)
  | .post 2 => .next (s.complete s.me.tmp.n none)
  | _ => .fault .noSuchMicroStep

/-- READ from `μ5` on (R142). -/
def readLoop (dst : Option Nat) (s : State) : Result :=
  match s.copyStage with
  | .rd => copyRead (s.regionAddr s.me.tmp.sr) s
  | .wr => copyWrite (s.callerAddr dst) s
  | .post 0 => .next (storeRpos s)
  | .post 1 => .next (emitStep .read s.me.tmp.n s)
  | .post 2 => .next (s.complete s.me.tmp.n none)
  | _ => .fault .noSuchMicroStep

/-- PEEK from `μ5` on: no index store and no event (R143). -/
def peekLoop (dst : Option Nat) (s : State) : Result :=
  match s.copyStage with
  | .rd => copyRead (s.regionAddr s.me.tmp.s0) s
  | .wr => copyWrite (s.callerAddr dst) s
  | .post 0 => .next (s.complete s.me.tmp.n none)
  | _ => .fault .noSuchMicroStep

/-- WRITE with a given order of the snapshot's loads (R141). -/
def writeStep (o : SnapOrder) (src : Option Nat) (len : Nat) (s : State) : Result :=
  match s.mu with
  | 0 => .fault .noSuchMicroStep
  | 1 => .next (readyCheck s)
  | 2 => .next (argCheck (transferArgsOk src len) s)
  | 3 => .next (s.goOn (firstLoad o s))
  | 4 => planCopy src (writeLength len (secondLoad o s)) (secondLoad o s).sw (secondLoad o s) s
  | _ => writeLoop src s

/-- READ with a given order of the snapshot's loads (R142). -/
def readStep (o : SnapOrder) (dst : Option Nat) (len : Nat) (s : State) : Result :=
  match s.mu with
  | 0 => .fault .noSuchMicroStep
  | 1 => .next (readyCheck s)
  | 2 => .next (argCheck (transferArgsOk dst len) s)
  | 3 => .next (s.goOn (firstLoad o s))
  | 4 => planCopy dst (readLength len (secondLoad o s)) (secondLoad o s).sr (secondLoad o s) s
  | _ => readLoop dst s

/-- PEEK with a given order of the snapshot's loads (R143). -/
def peekStep (o : SnapOrder) (dst : Option Nat) (len skip : Nat) (s : State) : Result :=
  match s.mu with
  | 0 => .fault .noSuchMicroStep
  | 1 => .next (readyCheck s)
  | 2 => .next (argCheck (transferArgsOk dst len) s)
  | 3 => .next (s.goOn (firstLoad o s))
  | 4 => planPeek dst len skip (secondLoad o s) s
  | _ => peekLoop dst s

/-- WRITE (R141). -/
def execWrite (src : Option Nat) (len : Nat) (s : State) : Result := writeStep Config.snapOrder src len s

/-- READ (R142). -/
def execRead (dst : Option Nat) (len : Nat) (s : State) : Result := readStep Config.snapOrder dst len s

/-- PEEK (R143). -/
def execPeek (dst : Option Nat) (len skip : Nat) (s : State) : Result := peekStep Config.snapOrder dst len skip s

end Sys2Proof.Machine
end

