-- ==== Sys2Proof/Machine/IndexOnly.lean ====
section
/-! DEFINITION. SKIP and ADVANCE (spec/43_index_only.md). -/

namespace Sys2Proof.Machine

/-- SKIP (R160). A zero effective count stores nothing and emits nothing (log 19). -/
def execSkip (len : Nat) (s : State) : Result :=
  indexMove Config.snapOrder len Temps.usedSpace storeRpos .read s

/-- ADVANCE (R161). A zero effective count stores nothing and emits nothing (log 19). -/
def execAdvance (len : Nat) (s : State) : Result :=
  indexMove Config.snapOrder len Temps.freeSpace storeWpos .write s

end Sys2Proof.Machine
end

