-- ==== Sys2Proof/Machine/Lifecycle.lean ====
section
/-! DEFINITION. INIT, ISREADY, DETACH, SETNTFY (spec/40_lifecycle.md): one micro-step each. -/

namespace Sys2Proof.Machine

/-- The register writes of a successful INIT (R110), under either value of the open policy. -/
def bindRegion (policy : NotifyPolicy) (a : Nat) (cap : Nat) (s : State) : State :=
  { s with
    base := a, cap := cap, wpos := 0, rpos := 0, bound := true
    nen := match policy with
      | .keep => s.nen
      | .clear => false }

/-- INIT on a given policy (R110). A failed INIT changes nothing (log 18). -/
def initStep (policy : NotifyPolicy) (region : Option Nat) (cap : Nat) (s : State) : Result :=
  match region with
  | none => .next s.completeZero
  | some a =>
    if cap = 0 then .next s.completeZero
    else if s.widths.memSize < a + cap then .refused .regionWraps
    else if otherInFlight s then .refused .notQuiescent
    else .next ((bindRegion policy a cap s).complete (boolResult true) none)

/-- INIT (R110). -/
def execInit (region : Option Nat) (cap : Nat) (s : State) : Result :=
  match s.mu with
  | 1 => initStep Config.initNotifyPolicy region cap s
  | _ => .fault .noSuchMicroStep

/-- ISREADY (R111). -/
def execIsready (s : State) : Result :=
  match s.mu with
  | 1 => .next (s.complete (boolResult s.bound) none)
  | _ => .fault .noSuchMicroStep

/-- DETACH of a ready buffer: `BOUND <- 0` (R112), with the other port quiescent (R226). -/
def detachReady (s : State) : Result :=
  if otherInFlight s then .refused .notQuiescent else .next { s with bound := false }.completeZero

/-- DETACH (R112). -/
def execDetach (s : State) : Result :=
  match s.mu with
  | 1 => if s.bound then detachReady s else .next s.completeZero
  | _ => .fault .noSuchMicroStep

/-- The hook after SETNTFY: installed with the handle, or removed with `NHND` keeping its value (R113). -/
def setHook (handle : Option Nat) (s : State) : State :=
  match handle with
  | some h => { s with nen := true, nhnd := h }
  | none => { s with nen := false }

/-- SETNTFY (R113). -/
def execSetntfy (handle : Option Nat) (s : State) : Result :=
  match s.mu with
  | 1 => .next (if s.bound then setHook handle s else s).completeZero
  | _ => .fault .noSuchMicroStep

end Sys2Proof.Machine
end

