-- ==== Sys2Proof/Machine/Linear.lean ====
section
/-! DEFINITION. LRADDR, LRLEN, LWADDR, LWLEN (spec/44_linear.md). -/

namespace Sys2Proof.Machine

/-- LRADDR (R172): loads `RPOS` only. -/
def execLraddr (s : State) : Result :=
  addressQuery (fun s => { s.me.tmp with sr := s.rpos }) Temps.sr s

/-- LRLEN (R173). -/
def execLrlen (s : State) : Result := snapshotQuery Config.snapOrder Temps.linRead s

/-- LWADDR (R174): loads `WPOS` only. -/
def execLwaddr (s : State) : Result :=
  addressQuery (fun s => { s.me.tmp with sw := s.wpos }) Temps.sw s

/-- LWLEN (R175). -/
def execLwlen (s : State) : Result := snapshotQuery Config.snapOrder Temps.linWrite s

end Sys2Proof.Machine
end

