-- ==== Sys2Proof/Machine/ResetOp.lean ====
section
/-! DEFINITION. The RESET command (spec/45_reset_op.md). -/

namespace Sys2Proof.Machine

/-- RESET's second micro-step: both indices become 0 at once (R180), with the other port quiescent (R226). -/
def zeroIndices (s : State) : Result :=
  if otherInFlight s then .refused .notQuiescent else .next ({ s with wpos := 0, rpos := 0 }.goOn s.me.tmp)

/-- RESET (R180). -/
def execReset (s : State) : Result :=
  match s.mu with
  | 1 => .next (readyCheck s)
  | 2 => zeroIndices s
  | 3 => .next (emitStep .reset 0 s)
  | 4 => .next s.completeZero
  | _ => .fault .noSuchMicroStep

end Sys2Proof.Machine
end

