-- ==== Sys2Proof/Machine/Dispatch.lean ====
section
/-! DEFINITION. exec: one micro-step of a command, on the port whose turn it is. -/

namespace Sys2Proof.Machine

/-- The next micro-step of command `i` on the port `s.cur` (R13, R34). -/
def exec (i : Instr) (s : State) : Host.Outcome State Fault Refusal :=
  match i with
  | .init region cap => Sys2Proof.Machine.execInit region cap s
  | .isready => Sys2Proof.Machine.execIsready s
  | .detach => Sys2Proof.Machine.execDetach s
  | .setntfy handle => Sys2Proof.Machine.execSetntfy handle s
  | .free => Sys2Proof.Machine.execFree s
  | .used => Sys2Proof.Machine.execUsed s
  | .write src len => Sys2Proof.Machine.execWrite src len s
  | .read dst len => Sys2Proof.Machine.execRead dst len s
  | .peek dst len skip => Sys2Proof.Machine.execPeek dst len skip s
  | .skip len => Sys2Proof.Machine.execSkip len s
  | .advance len => Sys2Proof.Machine.execAdvance len s
  | .lraddr => Sys2Proof.Machine.execLraddr s
  | .lrlen => Sys2Proof.Machine.execLrlen s
  | .lwaddr => Sys2Proof.Machine.execLwaddr s
  | .lwlen => Sys2Proof.Machine.execLwlen s
  | .reset => Sys2Proof.Machine.execReset s

end Sys2Proof.Machine
end

