-- ==== Sys2Proof/Machine/Sequencer.lean ====
section
/-! DEFINITION. One turn of one agent (R13, R34, R204). -/

namespace Sys2Proof.Machine

/-- Whose turn it is: the next one of the schedule, or a free one when the schedule is used up (log 4). -/
def State.turn (s : State) : Turn :=
  match s.sched with
  | t :: _ => t
  | [] => Config.freeTurn s.tick

/-- The state after its turn has been taken off the schedule. -/
def State.tookTurn (s : State) : State := { s with sched := s.sched.tail, tick := s.tick + 1 }

/-- A turn of port `p`'s sequencer: the next micro-step of the command latched there. An idle port has no enabled
micro-step, so nothing happens (R34, R207). -/
def microStep (p : Port) (s : State) : Result :=
  match (s.port p).phase with
  | .idle => .next s
  | .run _ =>
    match decode (s.port p).packet with
    | .ok i => exec i { s with cur := p }
    | .error _ => execIllegal { s with cur := p }

/-- One turn. -/
def takeTurn (t : Turn) (s : State) : Result :=
  match t with
  | .issue p packet => .next (issue p packet s)
  | .run p => microStep p s
  | .outsideWrite a v => .next (outsideWrite a v s)
  | .outsideRead _ => .next s
  | .hwReset => .next (hwReset s)

/-- Place a packet where the next step runs it: latched on port `P`, at `μ1`, with port `P`'s turn next (log 5). -/
def placePacket (s : State) (packet : Packet) : State :=
  { s.setPort .P (s.portP.latch packet) with sched := .run .P :: s.sched }

end Sys2Proof.Machine
end

