-- ==== Sys2Proof/Machine/Step.lean ====
section
/-! DEFINITION. The step of the whole machine, and how a command is placed for it. -/

namespace Sys2Proof.Machine

/-- One step: the agent whose turn it is moves (R13). -/
def step (s : State) : Host.Outcome State Fault Refusal := takeTurn s.turn s.tookTurn

/-- `s` with the packet whose lowest `nbits` bits are `w`, and whose others are 0, latched where the next step
runs it (log 5). -/
def State.withFetchWord (s : State) (nbits w : Nat) : State := placePacket s (packetOfNat s.widths (w % 2 ^ nbits))

end Sys2Proof.Machine
end

