-- ==== Sys2Proof/Safety.lean ====
section
/-! DEFINITION. What claims are stated in: runs of one command, the state invariant, the role contract, sound snapshots, the contents of the ring. -/

namespace Sys2Proof.Machine

/-! ### Runs of one command -/

/-- `k` micro-steps of command `i` on the port `s.cur` with nothing in between. -/
def execs (i : Instr) : Nat → State → Result
  | 0, s => .next s
  | k + 1, s =>
    match exec i s with
    | .next t => execs i k t
    | .fault r => .fault r
    | .refused r => .refused r

/-- The stepping port is about to take `μk`. -/
def State.atMu (s : State) (k : Nat) : Prop := s.me.phase = .run k

/-! ### What a micro-step leaves alone -/

/-- `BOUND`, `BASE` and `CAP` are unchanged. -/
def sameBinding (s t : State) : Prop := t.bound = s.bound ∧ t.base = s.base ∧ t.cap = s.cap

/-- `NEN` and `NHND` are unchanged. -/
def sameHook (s t : State) : Prop := t.nen = s.nen ∧ t.nhnd = s.nhnd

/-- `WPOS` and `RPOS` are unchanged. -/
def sameIndices (s t : State) : Prop := t.wpos = s.wpos ∧ t.rpos = s.rpos

/-- A port's operand registers are unchanged. -/
def sameOperands (x y : PortRegs) : Prop := y.cw = x.cw ∧ y.a0 = x.a0 ∧ y.a1 = x.a1 ∧ y.a2 = x.a2

/-- A port's result registers and flag are unchanged. -/
def sameResults (x y : PortRegs) : Prop := y.r0 = x.r0 ∧ y.r1 = x.r1 ∧ y.av = x.av

/-- Everything of the other port, the stepping port's operands, and the model's own fields are unchanged. -/
def sameSurroundings (s t : State) : Prop :=
  t.opposite = s.opposite ∧ sameOperands s.me t.me ∧ t.widths = s.widths ∧ t.cur = s.cur ∧ t.sched = s.sched ∧
    t.tick = s.tick

/-- The zero result is in the stepping port's result registers and the port is idle. -/
def zeroResult (t : State) : Prop := t.me.phase = .idle ∧ t.me.r0 = 0 ∧ t.me.r1 = 0 ∧ t.me.av = false

/-- The count `n` is in the stepping port's result registers and the port is idle. -/
def countResult (n : Nat) (t : State) : Prop :=
  t.me.phase = .idle ∧ t.me.r0 = n ∧ t.me.r1 = 0 ∧ t.me.av = false

/-- What an `Emit(k, c)` on the port `s.cur` appends (R14, R197). -/
def eventsOf (s : State) (k : EventKind) (c : Nat) : List Event :=
  if s.nen then [{ port := s.cur, handle := s.nhnd, kind := k, count := c }] else []

/-! ### The state invariant -/

/-- The ready buffer of R27 and R51: indices below the capacity, a region that does not wrap. -/
def Usable (s : State) : Prop :=
  s.bound = true ∧ s.wpos < s.cap ∧ s.rpos < s.cap ∧
    s.base + s.cap ≤ s.widths.memSize

/-- `w` of the two loads of a snapshot are done and what they loaded is an index (R16). -/
def loadedInRange (w : Nat) (t : Temps) : Prop :=
  match Config.snapOrder with
  | .wFirst => (1 ≤ w → t.sw < t.cap) ∧ (2 ≤ w → t.sr < t.cap)
  | .rFirst => (1 ≤ w → t.sr < t.cap) ∧ (2 ≤ w → t.sw < t.cap)

/-- A copy in flight at `μk` in a memory of `size` bytes: its cursor fits the micro-step, at most `extra` micro-steps
follow its loop's end but one, and the caller's buffer neither wraps nor overlaps the region (R140, R69). -/
def copyOk (size extra k : Nat) (buf : Option Nat) (start : Nat) (t : Temps) : Prop :=
  1 ≤ t.n ∧ start < t.cap ∧ t.n < t.cap ∧
    t.c1 = firstSegment start t.n t.cap ∧
    ptrAddr buf + t.n ≤ size ∧
    rangesOverlap (ptrAddr buf) t.n t.b t.cap = false ∧
    ((t.i < t.n ∧ (k = 5 + 2 * t.i ∨ k = 6 + 2 * t.i)) ∨
      (t.i = t.n ∧ 5 + 2 * t.n ≤ k ∧ k ≤ 5 + 2 * t.n + extra))

/-- Where a command that has passed its `ReadyCheck` may be, and what its temporaries hold there. -/
def progressOk (size : Nat) (i : Instr) (k : Nat) (t : Temps) : Prop :=
  match i with
  | .init _ _ => False
  | .isready => False
  | .detach => False
  | .setntfy _ => False
  | .free => k ≤ 4 ∧ loadedInRange (k - 2) t
  | .used => k ≤ 4 ∧ loadedInRange (k - 2) t
  | .write src len =>
    (3 ≤ k → transferArgsOk src len = true) ∧ loadedInRange (k - 3) t ∧
      (5 ≤ k → t.n = min len t.freeSpace ∧ copyOk size 2 k src t.sw t)
  | .read dst len =>
    (3 ≤ k → transferArgsOk dst len = true) ∧ loadedInRange (k - 3) t ∧
      (5 ≤ k → t.n = min len t.usedSpace ∧ copyOk size 2 k dst t.sr t)
  | .peek dst len skip =>
    (3 ≤ k → transferArgsOk dst len = true) ∧ loadedInRange (k - 3) t ∧
      (5 ≤ k → skip < t.usedSpace ∧ t.n = min len (t.usedSpace - skip) ∧
        t.s0 = adv t.sr skip t.cap ∧ copyOk size 0 k dst t.s0 t)
  | .skip len =>
    k ≤ 7 ∧ (3 ≤ k → countArgOk len = true) ∧ loadedInRange (k - 3) t ∧
      (5 ≤ k → 1 ≤ t.n ∧ t.n = min len t.usedSpace)
  | .advance len =>
    k ≤ 7 ∧ (3 ≤ k → countArgOk len = true) ∧ loadedInRange (k - 3) t ∧
      (5 ≤ k → 1 ≤ t.n ∧ t.n = min len t.freeSpace)
  | .lraddr => k ≤ 3 ∧ (3 ≤ k → t.sr < t.cap)
  | .lrlen => k ≤ 4 ∧ loadedInRange (k - 2) t
  | .lwaddr => k ≤ 3 ∧ (3 ≤ k → t.sw < t.cap)
  | .lwlen => k ≤ 4 ∧ loadedInRange (k - 2) t
  | .reset => k ≤ 4

/-- One port against the shared registers: past its first micro-step a command runs on the current binding. -/
def portOk (s : State) (x : PortRegs) : Prop :=
  match x.phase with
  | .idle => True
  | .run k => 1 ≤ k ∧
      (2 ≤ k → s.bound = true ∧ x.tmp.b = s.base ∧ x.tmp.cap = s.cap ∧
        ∃ i, decode x.packet = .ok i ∧ progressOk s.widths.memSize i k x.tmp)

/-- A port's registers hold values of their widths (R9, R20). -/
def PortRegs.inWidth (ws : Widths) (x : PortRegs) : Prop :=
  x.a0 < ws.memSize ∧ x.a1 < ws.wordSize ∧ x.a2 < ws.wordSize ∧ x.r0 < ws.wordSize ∧ x.r1 < ws.memSize ∧
    x.tmp.b < ws.memSize ∧ x.tmp.cap < ws.wordSize ∧ x.tmp.sw < ws.wordSize ∧ x.tmp.sr < ws.wordSize ∧
    x.tmp.n < ws.wordSize ∧ x.tmp.c1 < ws.wordSize ∧ x.tmp.i < ws.wordSize ∧ x.tmp.s0 < ws.wordSize

/-- Every register and every event record holds values of its width (R9: "each rule that writes a register states, or
makes evident, that the value fits"), every listed byte of `Mem` exists, and `W` is at least 1, so that a `W`-bit
register holds R84's boolean. -/
def Fits (s : State) : Prop :=
  1 ≤ s.widths.w ∧ s.base < s.widths.memSize ∧ s.nhnd < s.widths.memSize ∧ s.cap < s.widths.wordSize ∧
    s.wpos < s.widths.wordSize ∧ s.rpos < s.widths.wordSize ∧ s.portP.inWidth s.widths ∧ s.portC.inWidth s.widths ∧
    (∀ e ∈ s.evq, e.handle < s.widths.memSize ∧ e.count < s.widths.wordSize) ∧ s.mem.below s.widths.memSize = true

/-- The state invariant: a ready buffer is usable (R27), both ports are where a command can be, memory has its
canonical form, everything fits its width. -/
def Inv (s : State) : Prop :=
  (s.bound = true → Usable s) ∧ portOk s s.portP ∧ portOk s s.portC ∧ s.mem.wf = true ∧ Fits s

/-! ### Where a command stops (spec/93, treatment `refuse`) -/

/-- The caller's buffer of a copy command. -/
def callerBuffer : Instr → Option Nat
  | .write src _ => src
  | .read dst _ => dst
  | .peek dst _ _ => dst
  | _ => none

/-- The effective length a copy command gets at its fourth micro-step, from the snapshot its second load completes
(R141 to R143); 0 for any other command. -/
def effectiveLength (i : Instr) (s : State) : Nat :=
  match i with
  | .write _ len => min len (secondLoad Config.snapOrder s).freeSpace
  | .read _ len => min len (secondLoad Config.snapOrder s).usedSpace
  | .peek _ len skip => min len ((secondLoad Config.snapOrder s).usedSpace - skip)
  | _ => 0

/-- The four situations in which the next micro-step of command `i` on the port `s.cur` has no meaning: the other port
past its `ReadyCheck` when INIT binds, DETACH unbinds or RESET zeroes (U2; log 10), a region that wraps (U3; log 11), a
caller's buffer of `n > 0` bytes that wraps or overlaps the region (U4; log 12). -/
def StopsAs (i : Instr) (s : State) (r : Refusal) : Prop :=
  (r = .regionWraps ∧ ∃ a cap, i = .init (some a) cap ∧ s.atMu 1 ∧ cap ≠ 0 ∧ s.widths.memSize < a + cap) ∨
  (r = .notQuiescent ∧ 2 ≤ s.opposite.phase.mu ∧
    ((∃ a cap, i = .init (some a) cap ∧ s.atMu 1 ∧ cap ≠ 0 ∧ a + cap ≤ s.widths.memSize) ∨
     (i = .detach ∧ s.atMu 1 ∧ s.bound = true) ∨ (i = .reset ∧ s.atMu 2))) ∨
  (r = .bufferWraps ∧ s.atMu 4 ∧ 0 < effectiveLength i s ∧
    s.widths.memSize < ptrAddr (callerBuffer i) + effectiveLength i s) ∨
  (r = .bufferOverlapsRegion ∧ s.atMu 4 ∧ 0 < effectiveLength i s ∧
    ptrAddr (callerBuffer i) + effectiveLength i s ≤ s.widths.memSize ∧
    rangesOverlap (ptrAddr (callerBuffer i)) (effectiveLength i s) s.me.tmp.b s.me.tmp.cap = true)

/-! ### Where a command emits (R195) -/

/-- The next micro-step of command `i` is its emit micro-step, for a record of kind `k` and count `c` (R141, R142,
R160, R161, R180). -/
def EmitsAt (i : Instr) (s : State) (k : EventKind) (c : Nat) : Prop :=
  ((∃ src len, i = .write src len) ∧ s.me.tmp.i = s.me.tmp.n ∧ s.atMu (6 + 2 * s.me.tmp.n) ∧ k = .write ∧ c = s.me.tmp.n) ∨
  ((∃ len, i = .advance len) ∧ s.atMu 6 ∧ k = .write ∧ c = s.me.tmp.n) ∨
  ((∃ dst len, i = .read dst len) ∧ s.me.tmp.i = s.me.tmp.n ∧ s.atMu (6 + 2 * s.me.tmp.n) ∧ k = .read ∧ c = s.me.tmp.n) ∨
  ((∃ len, i = .skip len) ∧ s.atMu 6 ∧ k = .read ∧ c = s.me.tmp.n) ∨
  (i = .reset ∧ s.atMu 3 ∧ k = .reset ∧ c = 0)

/-! ### The role contract (R203) and sound snapshots (R135) -/

/-- The producer's commands. -/
def producerOnly : Instr → Bool
  | .init _ _ => true
  | .write _ _ => true
  | .advance _ => true
  | .reset => true
  | _ => false

/-- The consumer's commands. -/
def consumerOnly : Instr → Bool
  | .read _ _ => true
  | .peek _ _ _ => true
  | .skip _ => true
  | _ => false

/-- The role contract's table: `P` issues no consumer command, `C` no producer command (R203). -/
def roleAllows : Port → Instr → Bool
  | .P, i => !consumerOnly i
  | .C, i => !producerOnly i

/-- Every command in flight is on the port its role allows. -/
def Roles (s : State) : Prop :=
  ∀ p i, (s.port p).phase ≠ .idle → decode (s.port p).packet = .ok i → roleAllows p i = true

/-- A turn keeps the role contract: what it issues is allowed on the port it is issued on. -/
def roleTurn : Turn → Prop
  | .issue p packet => ∀ i, decode packet = .ok i → roleAllows p i = true
  | _ => True

/-- At `μk`, `WPOS` has been loaded by a snapshot whose first load is `μ3`. -/
def wLoaded (k : Nat) : Prop :=
  match Config.snapOrder with
  | .wFirst => 4 ≤ k
  | .rFirst => 5 ≤ k

/-- At `μk`, `RPOS` has been loaded by a snapshot whose first load is `μ3`. -/
def rLoaded (k : Nat) : Prop :=
  match Config.snapOrder with
  | .wFirst => 5 ≤ k
  | .rFirst => 4 ≤ k

/-- The last micro-step of a command at which its index is not yet stored (of PEEK, which stores none, its last). -/
def storeMu (i : Instr) (t : Temps) : Nat :=
  match i with
  | .write _ _ => 5 + 2 * t.n
  | .read _ _ => 5 + 2 * t.n
  | .peek _ _ _ => 5 + 2 * t.n
  | _ => 5

/-- A producer command's snapshot against the live indices, until its own store: `WPOS` is live and the free space
it sees is at most the true one (R135). -/
def producerSound (s : State) (x : PortRegs) : Prop :=
  ∀ k i, x.phase = .run k → decode x.packet = .ok i → (∃ p len, i = .write p len) ∨ (∃ len, i = .advance len) →
    k ≤ storeMu i x.tmp →
    (wLoaded k → x.tmp.sw = s.wpos) ∧
    (rLoaded k → freeSpace s.wpos x.tmp.sr s.cap
      ≤ freeSpace s.wpos s.rpos s.cap)

/-- A consumer command's snapshot against the live indices, until its own store: `RPOS` is live and the used space
it sees is at most the true one (R135). -/
def consumerSound (s : State) (x : PortRegs) : Prop :=
  ∀ k i, x.phase = .run k → decode x.packet = .ok i → consumerOnly i = true →
    k ≤ storeMu i x.tmp →
    (rLoaded k → x.tmp.sr = s.rpos) ∧
    (wLoaded k → usedSpace x.tmp.sw s.rpos s.cap
      ≤ usedSpace s.wpos s.rpos s.cap)

/-- Every clamp in flight is conservative (R135). -/
def Conservative (s : State) : Prop := producerSound s s.portP ∧ consumerSound s s.portC

/-! ### The contents of the ring -/

/-- The bytes stored and not yet read, oldest first (R31's used range). -/
def content (s : State) : List Byte :=
  (List.range (usedSpace s.wpos s.rpos s.cap)).map
    (fun j => s.mem.load (s.base + adv s.rpos j s.cap))

/-- `x` is the address of a byte of the bound region (R19). -/
def inRegion (s : State) (x : Nat) : Prop := s.base ≤ x ∧ x < s.base + s.cap

/-- The command in flight on port `p`. -/
def State.runs (s : State) (p : Port) (i : Instr) : Prop :=
  (s.port p).phase ≠ .idle ∧ decode (s.port p).packet = .ok i

/-- The address the next micro-step of command `i` stores to, if it stores to memory: the same expressions its
meaning passes to `copyWrite`. -/
def storeAddr (i : Instr) (s : State) : Option Nat :=
  match i with
  | .write _ _ => if 5 ≤ s.mu ∧ s.copyStage = .wr then some (s.regionAddr s.me.tmp.sw) else none
  | .read dst _ => if 5 ≤ s.mu ∧ s.copyStage = .wr then some (s.callerAddr dst) else none
  | .peek dst _ _ => if 5 ≤ s.mu ∧ s.copyStage = .wr then some (s.callerAddr dst) else none
  | _ => none

/-- The address the next micro-step of command `i` reads, if it reads memory. -/
def loadAddr (i : Instr) (s : State) : Option Nat :=
  match i with
  | .write src _ => if 5 ≤ s.mu ∧ s.copyStage = .rd then some (s.callerAddr src) else none
  | .read _ _ => if 5 ≤ s.mu ∧ s.copyStage = .rd then some (s.regionAddr s.me.tmp.sr) else none
  | .peek _ _ _ => if 5 ≤ s.mu ∧ s.copyStage = .rd then some (s.regionAddr s.me.tmp.s0) else none
  | _ => none

/-- `x` is one of `n` addresses from `a`. -/
def inRange (a n x : Nat) : Prop := a ≤ x ∧ x < a + n

/-- The first `i` bytes of port `p`'s WRITE are in the region as they are in the source buffer, and the byte in flight
is the source's byte `i` (R140, R52). -/
def writeFaithful (s : State) : Prop :=
  ∀ k src len, s.portP.phase = .run k → decode s.portP.packet = .ok (.write src len) →
    5 ≤ k → k ≤ 5 + 2 * s.portP.tmp.n →
    (∀ j, j < s.portP.tmp.i →
      s.mem.load (s.base + adv s.portP.tmp.sw j s.cap) = s.mem.load (bufAddr src j)) ∧
    (k = 6 + 2 * s.portP.tmp.i → s.portP.tmp.t = s.mem.load (bufAddr src s.portP.tmp.i))

/-- The first `i` bytes of port `C`'s READ are in the destination buffer as they are in the ring from `RPOS` on, and
the byte in flight is the ring's byte `i` (R140, R52). -/
def readFaithful (s : State) : Prop :=
  ∀ k dst len, s.portC.phase = .run k → decode s.portC.packet = .ok (.read dst len) →
    5 ≤ k → k ≤ 5 + 2 * s.portC.tmp.n →
    (∀ j, j < s.portC.tmp.i →
      s.mem.load (bufAddr dst j) = s.mem.load (s.base + adv s.rpos j s.cap)) ∧
    (k = 6 + 2 * s.portC.tmp.i →
      s.portC.tmp.t = s.mem.load (s.base + adv s.rpos s.portC.tmp.i s.cap))

/-- The first `i` bytes of port `C`'s PEEK are in the destination buffer as they are in the ring from `skip` bytes past
`RPOS` on, and the byte in flight is the ring's byte `skip + i` (R140, R143, R52). -/
def peekFaithful (s : State) : Prop :=
  ∀ k dst len skip, s.portC.phase = .run k → decode s.portC.packet = .ok (.peek dst len skip) →
    5 ≤ k → k ≤ 5 + 2 * s.portC.tmp.n →
    (∀ j, j < s.portC.tmp.i →
      s.mem.load (bufAddr dst j) = s.mem.load (s.base + adv s.rpos (skip + j) s.cap)) ∧
    (k = 6 + 2 * s.portC.tmp.i →
      s.portC.tmp.t = s.mem.load (s.base + adv s.rpos (skip + s.portC.tmp.i) s.cap))

/-- The address the machine's next step stores to, if it stores to memory. -/
def stepStores (s : State) (x : Nat) : Prop :=
  (∃ a v, s.turn = .outsideWrite a v ∧ x = a % s.widths.memSize) ∨
  (∃ p i, s.turn = .run p ∧ s.runs p i ∧ storeAddr i { s.tookTurn with cur := p } = some x)

/-- The callers' duty of R231 and R228 for one step: nobody else stores into the source buffer of a WRITE in
flight or into the destination buffer of a READ or PEEK in flight, and no outside agent into the region. -/
def buffersLeftAlone (s : State) : Prop :=
  (∀ x src len, stepStores s x → s.turn ≠ .run .P → s.runs .P (.write src len) → 5 ≤ s.portP.phase.mu →
    ¬ inRange (ptrAddr src) s.portP.tmp.n x) ∧
  (∀ x dst len, stepStores s x → s.turn ≠ .run .C → s.runs .C (.read dst len) → 5 ≤ s.portC.phase.mu →
    ¬ inRange (ptrAddr dst) s.portC.tmp.n x) ∧
  (∀ x dst len skip, stepStores s x → s.turn ≠ .run .C → s.runs .C (.peek dst len skip) → 5 ≤ s.portC.phase.mu →
    ¬ inRange (ptrAddr dst) s.portC.tmp.n x) ∧
  (∀ a v, s.turn = .outsideWrite a v → ¬ inRegion s (a % s.widths.memSize))

/-- The state with its two ports exchanged: every `P` becomes `C` and back (R32: "The two ports
are identical"). -/
def State.swapPorts (s : State) : State :=
  { s with
    portP := s.portC, portC := s.portP, cur := s.cur.other
    evq := s.evq.map (fun e => { e with port := e.port.other }) }

/-- The same exchange on an answer. -/
def swapResult : Result → Result
  | .next s => .next s.swapPorts
  | .fault r => .fault r
  | .refused r => .refused r

end Sys2Proof.Machine
end

