-- ==== Sys2Proof/Certificates/Slice0/Obligations.lean ====
section
/-! DEFINITION. The statements for the provers. A statement marked derived rests on a part of a rule, on a choice the spec marks as its own (D<n>) or on a log entry, as it says. -/

open Sys2Proof Sys2Proof.Machine

/-! ### Encoding -/

/-- Derived (30_encoding.md, D4 to D6, D8): every command, with every operand and whatever the
widths, is read back from its own packet. -/
def Obligations.DecodeOfEncodeIsTheCommand : Prop :=
  ∀ i : Instr, decode (encode i) = .ok i

/-- Derived (30_encoding.md, D4 to D6, D8): a legal packet is its command's packet but for the operands the command
ignores (R83, R88). -/
def Obligations.EncodeOfDecodeIsThePacketUsed : Prop :=
  ∀ (p : Packet) (i : Instr), decode p = .ok i →
    encode i =
      { cw := p.cw
        a0 := if p.cw.toNat / 256 % 2 = 1 then p.a0 else 0
        a1 := if i.mnemonic ∈ ["INIT", "WRITE", "READ", "PEEK", "SKIP", "ADVANCE"] then p.a1 else 0
        a2 := if i.mnemonic = "PEEK" then p.a2 else 0 }

/-- Derived (30_encoding.md section 2, D5, D6): every word selects exactly one row of the table, the one of the command
it decodes to, or is illegal and selects none. -/
def Obligations.WordSelectsItsRowOrIsIllegal : Prop :=
  ∀ p : Packet,
    (∃ i row, decode p = .ok i ∧ opcodeTable.filter (fun r => r.selects p.cw) = [row] ∧ row.mnemonic = i.mnemonic) ∨
    ((∃ e, decode p = .error e) ∧ opcodeTable.filter (fun r => r.selects p.cw) = [])

/-- Derived (30_encoding.md section 3, D5, D7): which words are illegal, and why, in the order of the decoding
algorithm, with the fields as arithmetic on the word. -/
def Obligations.IllegalWordsAreRejectedByName : Prop :=
  ∀ p : Packet,
    (decode p = .error .reservedBits ↔ p.cw.toNat / 512 ≠ 0) ∧
    (decode p = .error .unknownOpcode ↔
      p.cw.toNat / 512 = 0 ∧ (p.cw.toNat % 256 = 0 ∨ 16 < p.cw.toNat % 256)) ∧
    (decode p = .error .pointerNotAllowed ↔
      p.cw.toNat / 512 = 0 ∧ 1 ≤ p.cw.toNat % 256 ∧ p.cw.toNat % 256 ≤ 16 ∧ p.cw.toNat % 256 ∉ [1, 4, 7, 8, 9] ∧
        p.cw.toNat / 256 % 2 = 1)

/-- Derived (30_encoding.md section 4): the packets the spec writes out. -/
def Obligations.TheSpecsPacketsDecode : Prop :=
  decode ⟨0x00000101, 0x1000, 4, 0⟩ = .ok (.init (some 0x1000) 4) ∧
  decode ⟨0x00000001, 0, 4, 0⟩ = .ok (.init none 4) ∧
  decode ⟨0x00000107, 0x2000, 2, 0⟩ = .ok (.write (some 0x2000) 2) ∧
  decode ⟨0x00000109, 0x3000, 4, 1⟩ = .ok (.peek (some 0x3000) 4 1) ∧
  decode ⟨0x0000000A, 0, 3, 0⟩ = .ok (.skip 3) ∧
  decode ⟨0x00000006, 0, 0, 0⟩ = .ok .used ∧
  decode ⟨0x00000106, 0, 0, 0⟩ = .error .pointerNotAllowed ∧
  decode ⟨0x00000000, 0, 0, 0⟩ = .error .unknownOpcode ∧
  decode ⟨0x00000011, 0, 0, 0⟩ = .error .unknownOpcode ∧
  decode ⟨0x00000207, 0, 0, 0⟩ = .error .reservedBits

/-! ### The step and the turns -/

/-- Derived (10_state.md section 4, D28; log 5): when a port whose turn it is has a command in flight, the step is that
command's next micro-step, on that port, with the turn taken off the schedule. -/
def Obligations.StepRunsTheDecodedCommand : Prop :=
  ∀ (s : State) (p : Port) (k : Nat) (i : Instr),
    s.turn = .run p → (s.port p).phase = .run k → decode (s.port p).packet = .ok i →
    step s = exec i { s with cur := p, sched := s.sched.tail, tick := s.tick + 1 }

/-- Derived (log 5, log 20): the step after `withFetchWord` is the first micro-step, on port `P`, of the command decoded
from the placed packet; at the default widths that is the command `decodeTableWord` reads. -/
def Obligations.StepRunsThePlacedWord : Prop :=
  ∀ (s : State) (nbits w : Nat) (i : Instr),
    decode (packetOfNat s.widths (w % 2 ^ nbits)) = .ok i ∨ (s.widths = .default ∧ decodeTableWord nbits w = some i) →
    ∃ t : State, step (s.withFetchWord nbits w) = exec i t ∧ t.cur = .P ∧ t.atMu 1 ∧
      sameBinding s t ∧ sameHook s t ∧ sameIndices s t ∧ t.mem = s.mem ∧ t.evq = s.evq ∧ t.portC = s.portC ∧
      t.sched = s.sched ∧ t.widths = s.widths ∧ sameResults s.portP t.portP ∧ t.portP.tmp = s.portP.tmp

/-- Derived (30_encoding.md section 3, D7; log 15): an illegal word executes as one micro-step with the zero result and
changes nothing else. -/
def Obligations.IllegalWordCompletesWithZero : Prop :=
  ∀ (s : State) (p : Port) (e : Illegal), (s.port p).phase = .run 1 → decode (s.port p).packet = .error e →
    ∃ t, microStep p s = .next t ∧ zeroResult t ∧ t.cur = p ∧ sameBinding s t ∧ sameHook s t ∧ sameIndices s t ∧
      t.mem = s.mem ∧ t.evq = s.evq ∧ t.widths = s.widths ∧ t.port p.other = s.port p.other ∧
      sameOperands (s.port p) (t.port p)

/-- Derived (10_state.md section 4, D25; log 1, log 14): issue latches the packet, as wide as the port's operand
registers, on an idle port and starts its command at `μ1`; a busy port accepts no packet, and then nothing happens. -/
def Obligations.IssueIsAcceptedByAnIdlePortOnly : Prop :=
  ∀ (s : State) (p : Port) (packet : Packet), s.turn = .issue p packet →
    ∃ t, step s = .next t ∧ t.port p.other = s.port p.other ∧ sameBinding s t ∧ sameHook s t ∧ sameIndices s t ∧
      t.mem = s.mem ∧ t.evq = s.evq ∧ t.widths = s.widths ∧ sameResults (s.port p) (t.port p) ∧
      (t.port p).tmp = (s.port p).tmp ∧
      ((s.port p).phase = .idle → (t.port p).phase = .run 1 ∧ (t.port p).packet = packet.onWires s.widths) ∧
      ((s.port p).phase ≠ .idle → t.port p = s.port p)

/-- Derived (60_exceptions.md section 6, 10_state.md section 4): a port whose `PHASE` is `IDLE` has no enabled
micro-step. That the turn the model gives it is then a step that changes nothing but the schedule is the model's
choice (log 4). -/
def Obligations.IdlePortHasNoMicroStep : Prop :=
  ∀ (s : State) (p : Port), s.turn = .run p → (s.port p).phase = .idle →
    step s = .next { s with sched := s.sched.tail, tick := s.tick + 1 }

/-- Derived (70_reset_and_hazards.md section 1, D24): the hardware reset input, in any state. -/
def Obligations.HardwareResetAbandonsEverything : Prop :=
  ∀ s : State, s.turn = .hwReset →
    ∃ t, step s = .next t ∧ t.bound = false ∧ t.nen = false ∧ t.portP.phase = .idle ∧ t.portC.phase = .idle ∧
      t.evq = [] ∧ t.mem = s.mem ∧ t.widths = s.widths

/-- Derived (10_state.md section 6, D24; what the spec leaves unspecified is not claimed): the state after reset, of a
machine of any widths; `State.reset` is that of the default ones (R7, D2). -/
def Obligations.ResetLeavesTheEngineNotReady : Prop :=
  State.reset = State.resetAt .default ∧ Widths.default = ⟨32, 32⟩ ∧
  ∀ ws : Widths, (State.resetAt ws).widths = ws ∧ (State.resetAt ws).bound = false ∧ (State.resetAt ws).nen = false ∧
    (State.resetAt ws).portP.phase = .idle ∧ (State.resetAt ws).portC.phase = .idle ∧ (State.resetAt ws).evq = []

/-- Derived (10_state.md section 5; 20_memory.md section 2): an outside agent's write of one byte lands, at any of the
`2^AW` addresses, and changes nothing else; an outside read changes nothing. That a write outside the block last
reported to that agent runs too is the model's choice (log 23). -/
def Obligations.OutsideAccessTouchesOneByte : Prop :=
  ∀ (s : State) (a : Nat) (v : Byte),
    (s.turn = .outsideWrite a v → ∃ t, step s = .next t ∧ t.mem.load (a % s.widths.memSize) = v ∧
      (∀ x, x ≠ a % s.widths.memSize → t.mem.load x = s.mem.load x) ∧
      t = { s with mem := t.mem, sched := s.sched.tail, tick := s.tick + 1 }) ∧
    (s.turn = .outsideRead a → step s = .next { s with sched := s.sched.tail, tick := s.tick + 1 })

/-! ### INIT, ISREADY, DETACH, SETNTFY -/

/-- Derived (40_lifecycle.md section 2, D12, D21): INIT of a region that does not wrap, with the other port quiescent,
binds it; the hook is kept or disabled by the open policy. That it also runs with the other port at `RUN(1)`, issued but
past no micro-step, is the model's choice (log 10). -/
def Obligations.InitBindsTheRegion : Prop :=
  ∀ (s : State) (a : Nat) (cap : Nat), s.atMu 1 → cap ≠ 0 → a + cap ≤ s.widths.memSize → s.opposite.phase.mu ≤ 1 →
    ∃ t, exec (.init (some a) cap) s = .next t ∧ t.bound = true ∧ t.base = a ∧ t.cap = cap ∧ t.wpos = 0 ∧ t.rpos = 0 ∧
      t.nen = (match Config.initNotifyPolicy with
        | .keep => s.nen
        | .clear => false) ∧
      t.nhnd = s.nhnd ∧ countResult 1 t ∧ t.mem = s.mem ∧ t.evq = s.evq ∧ sameSurroundings s t

/-- Derived (40_lifecycle.md section 2, D11; log 18): INIT with an absent region or a zero capacity fails and changes
nothing, ready or not. -/
def Obligations.FailedInitChangesNothing : Prop :=
  ∀ (s : State) (region : Option Nat) (cap : Nat), s.atMu 1 → region = none ∨ cap = 0 →
    ∃ t, exec (.init region cap) s = .next t ∧ zeroResult t ∧ sameBinding s t ∧ sameHook s t ∧ sameIndices s t ∧
      t.mem = s.mem ∧ t.evq = s.evq ∧ sameSurroundings s t

/-- Derived (93_implementation_defined.md U2, U3; log 10, log 11): where INIT, DETACH and RESET have no meaning. -/
def Obligations.LifecycleStopsWhereTheSpecGivesNoMeaning : Prop :=
  (∀ (s : State) (a : Nat) (cap : Nat), s.atMu 1 → cap ≠ 0 → s.widths.memSize < a + cap →
    exec (.init (some a) cap) s = .refused .regionWraps) ∧
  (∀ (s : State) (a : Nat) (cap : Nat), s.atMu 1 → cap ≠ 0 → a + cap ≤ s.widths.memSize → 2 ≤ s.opposite.phase.mu →
    exec (.init (some a) cap) s = .refused .notQuiescent) ∧
  (∀ s : State, s.atMu 1 → s.bound = true → 2 ≤ s.opposite.phase.mu → exec .detach s = .refused .notQuiescent) ∧
  (∀ s : State, s.atMu 2 → 2 ≤ s.opposite.phase.mu → exec .reset s = .refused .notQuiescent)

/-- Stated (R111): ISREADY reports `BOUND`, reads nothing else and changes no shared state, on either port. -/
def Obligations.IsreadyReportsBound : Prop :=
  ∀ s : State, s.atMu 1 →
    ∃ t, exec .isready s = .next t ∧ countResult (if s.bound then 1 else 0) t ∧ sameBinding s t ∧ sameHook s t ∧
      sameIndices s t ∧ t.mem = s.mem ∧ t.evq = s.evq ∧ sameSurroundings s t

/-- Derived (40_lifecycle.md section 4, D9): DETACH of a ready buffer, with the other port quiescent, clears `BOUND` and
nothing else; of a buffer that is not ready it does nothing. That the first also runs with the other port at `RUN(1)`,
issued but past no micro-step, is the model's choice (log 10). -/
def Obligations.DetachClearsBoundOnly : Prop :=
  ∀ s : State, s.atMu 1 → s.bound = false ∨ s.opposite.phase.mu ≤ 1 →
    ∃ t, exec .detach s = .next t ∧ t.bound = false ∧ t.base = s.base ∧ t.cap = s.cap ∧ sameIndices s t ∧ sameHook s t ∧
      zeroResult t ∧ t.mem = s.mem ∧ t.evq = s.evq ∧ sameSurroundings s t

/-- Derived (40_lifecycle.md section 5, D19, D22): SETNTFY on a ready buffer installs any handle, or disables the hook
and leaves `NHND`; on a buffer that is not ready it changes nothing. -/
def Obligations.SetntfyInstallsOrRemovesTheHook : Prop :=
  ∀ (s : State) (handle : Option Nat), s.atMu 1 →
    ∃ t, exec (.setntfy handle) s = .next t ∧ zeroResult t ∧ sameBinding s t ∧ sameIndices s t ∧ t.mem = s.mem ∧
      t.evq = s.evq ∧ sameSurroundings s t ∧
      (s.bound = false → sameHook s t) ∧
      (∀ h, s.bound = true → handle = some h → t.nen = true ∧ t.nhnd = h) ∧
      (s.bound = true → handle = none → t.nen = false ∧ t.nhnd = s.nhnd)

/-- Stated (R114): on a buffer that is not ready every command but INIT and ISREADY completes at once with the zero
result and changes nothing else; INIT is the one command that leaves the not-ready state. -/
def Obligations.NotReadyIsAbsorbing : Prop :=
  (∀ (s : State) (i : Instr), s.atMu 1 → s.bound = false → i ≠ .isready → (∀ region cap, i ≠ .init region cap) →
    ∃ t, exec i s = .next t ∧ zeroResult t ∧ sameBinding s t ∧ sameHook s t ∧ sameIndices s t ∧ t.mem = s.mem ∧
      t.evq = s.evq ∧ t.me.tmp = s.me.tmp ∧ sameSurroundings s t) ∧
  (∀ (s t : State) (i : Instr), exec i s = .next t → s.bound = false → t.bound = true →
    ∃ region cap, i = .init region cap)

/-- Derived (40_lifecycle.md section 1; that SKIP and ADVANCE of zero length emit no event is D18, log 19, and that a
failed INIT leaves a ready buffer alone is D11, log 18, both choices): invalid arguments end the command with the zero
result and no other change: at the argument check of WRITE, READ, PEEK (absent pointer or zero length), SKIP and
ADVANCE (zero length), at INIT's one micro-step (absent region or zero capacity). An absent pointer is no error to
SETNTFY: it disables the hook. A zero skip count is no error to PEEK: it passes the argument check, starts at the
oldest byte and clamps as READ does. -/
def Obligations.InvalidArgumentsChangeNothing : Prop :=
  (∀ (s : State) (i : Instr),
    ((s.atMu 2 ∧ ∃ p len, (i = .write p len ∨ i = .read p len ∨ ∃ skip, i = .peek p len skip) ∧ (p = none ∨ len = 0)) ∨
     (s.atMu 2 ∧ ∃ len, (i = .skip len ∨ i = .advance len) ∧ len = 0) ∨
     (s.atMu 1 ∧ ∃ p len, i = .init p len ∧ (p = none ∨ len = 0))) →
    ∃ t, exec i s = .next t ∧ zeroResult t ∧ sameBinding s t ∧ sameHook s t ∧ sameIndices s t ∧ t.mem = s.mem ∧
      t.evq = s.evq ∧ sameSurroundings s t) ∧
  (∀ s : State, s.atMu 1 → s.bound = true → ∃ t, exec (.setntfy none) s = .next t ∧ t.nen = false) ∧
  (∀ (s : State) (a : Nat) (len : Nat), s.atMu 2 → len ≠ 0 →
    ∃ t, exec (.peek (some a) len 0) s = .next t ∧ t.atMu 3) ∧
  (∀ (len : Nat) (u : Temps), u.sr < u.cap →
    peekStart 0 u = u.sr ∧ peekLength len 0 u = readLength len u)

/-! ### The arithmetic -/

/-- Derived (41_accounting.md section 1, the rule's own inferences): `U` is the distance from read to write index modulo
`N`, at most `N − 1`, 0 exactly when empty, `N − 1` exactly when write is one behind read. -/
def Obligations.UsedSpaceIsTheDistanceModuloN : Prop :=
  ∀ w r N : Nat, w < N → r < N →
    usedSpace w r N = (w + N - r) % N ∧ usedSpace w r N ≤ N - 1 ∧ (usedSpace w r N = 0 ↔ w = r) ∧
      (usedSpace w r N = N - 1 ↔ (w + 1) % N = r)

/-- Derived (41_accounting.md section 1, 10_state.md section 3): free space by cases, and conservation. -/
def Obligations.UsedAndFreeAddUpToUsableCapacity : Prop :=
  ∀ w r N : Nat, w < N → r < N →
    usedSpace w r N + freeSpace w r N = N - 1 ∧ (w = r → freeSpace w r N = N - 1) ∧
      (r < w → freeSpace w r N = N - 1 - (w - r)) ∧ (w < r → freeSpace w r N = r - w - 1)

/-- Derived (41_accounting.md section 1, D3): the wrapped advance is addition modulo `N`, lands on 0 when it lands on
`N`, and moving an index forward by `k` adds `k` to the used space (write side) or takes it away (read side). -/
def Obligations.WrappedAdvanceMovesTheOccupancy : Prop :=
  ∀ w r k N : Nat, w < N → r < N →
    (k ≤ N → adv w k N = (w + k) % N ∧ adv w k N < N ∧ (w + k = N → adv w k N = 0)) ∧
    (k ≤ freeSpace w r N → usedSpace (adv w k N) r N = usedSpace w r N + k) ∧
    (k ≤ usedSpace w r N → usedSpace w (adv r k N) N = usedSpace w r N - k)

/-- Derived (44_linear.md section 1, the rules' own inferences): the linear lengths against used and free space, and the
sentinel gap: advancing the write index by all of the linear write length never makes a buffer look empty. -/
def Obligations.LinearLengthsFitTheRuns : Prop :=
  ∀ w r N : Nat, w < N → r < N →
    linRead w r N ≤ usedSpace w r N ∧ (linRead w r N = 0 ↔ w = r) ∧ r + linRead w r N ≤ N ∧
    linWrite w r N ≤ freeSpace w r N ∧ (linWrite w r N = 0 ↔ freeSpace w r N = 0) ∧ w + linWrite w r N ≤ N ∧
    (linWrite w r N ≠ 0 → adv w (linWrite w r N) N ≠ r) ∧
    (r ≤ w → 0 < r → freeSpace w r N = linWrite w r N + (r - 1))

/-! ### The queries -/

/-- One query of four micro-steps with anything happening between them: `s1` to `s4` are the states in which it takes
its micro-steps, and only the stepping port's own registers carry over from one to the next. Each micro-step changes
that port's registers only, each index is loaded once, in the open order, and the answer is the figure of the two
values loaded. On a buffer that is not ready the first micro-step completes with zero. -/
def SnapshotQueryAnswers (i : Instr) (figure : Nat → Nat → Nat → Nat) : Prop :=
  ∀ s1 : State, s1.atMu 1 →
    (s1.bound = false → exec i s1 = .next s1.completeZero) ∧
    (s1.bound = true → ∃ t1, exec i s1 = .next t1 ∧ t1 = s1.setMe t1.me ∧ t1.atMu 2 ∧ sameOperands s1.me t1.me ∧
      ∀ s2 : State, s2.me = t1.me → ∃ t2, exec i s2 = .next t2 ∧ t2 = s2.setMe t2.me ∧ t2.atMu 3 ∧
        sameOperands s1.me t2.me ∧
        ∀ s3 : State, s3.me = t2.me → ∃ t3, exec i s3 = .next t3 ∧ t3 = s3.setMe t3.me ∧ t3.atMu 4 ∧
          sameOperands s1.me t3.me ∧
          ∀ s4 : State, s4.me = t3.me → ∃ t4, exec i s4 = .next t4 ∧ t4 = s4.setMe t4.me ∧
            sameOperands s1.me t4.me ∧
            countResult (match Config.snapOrder with
              | .wFirst => figure s2.wpos s3.rpos s1.cap
              | .rFirst => figure s3.wpos s2.rpos s1.cap) t4)

/-- Stated (R132): USED answers `U` of its one snapshot, whatever the other agents do meanwhile. -/
def Obligations.UsedAnswersTheUsedSpaceOfItsSnapshot : Prop := SnapshotQueryAnswers .used usedSpace

/-- Stated (R133): FREE answers `N − 1 − U` of its one snapshot. -/
def Obligations.FreeAnswersTheFreeSpaceOfItsSnapshot : Prop :=
  SnapshotQueryAnswers .free (fun w r N => N - 1 - usedSpace w r N)

/-- Stated (R173): LRLEN answers the contiguous readable run of its one snapshot. -/
def Obligations.LrlenAnswersTheLinearReadLength : Prop :=
  SnapshotQueryAnswers .lrlen (fun w r N => if w ≥ r then w - r else N - r)

/-- Stated (R175): LWLEN answers the contiguous writable run of its one snapshot, one byte short of the physical end
exactly when the read index is 0. -/
def Obligations.LwlenAnswersTheLinearWriteLength : Prop :=
  SnapshotQueryAnswers .lwlen
    (fun w r N => if w ≥ r then (if r = 0 then N - w - 1 else N - w) else r - w - 1)

/-- Derived (44_linear.md sections 2 and 3, D32): LRADDR and LWADDR answer the address of the index they load at their
second micro-step, on a ready buffer, with `AV = 1`, whatever the other agents do meanwhile. -/
def Obligations.AddressQueriesAnswerTheIndexAddress : Prop :=
  ∀ (i : Instr) (index : State → Nat), (i = .lraddr ∧ index = State.rpos) ∨ (i = .lwaddr ∧ index = State.wpos) →
    ∀ s1 : State, s1.atMu 1 → s1.bound = true →
      ∃ t1, exec i s1 = .next t1 ∧ t1 = s1.setMe t1.me ∧ t1.atMu 2 ∧ sameOperands s1.me t1.me ∧
        ∀ s2 : State, s2.me = t1.me → ∃ t2, exec i s2 = .next t2 ∧ t2 = s2.setMe t2.me ∧ t2.atMu 3 ∧
          sameOperands s1.me t2.me ∧
          ∀ s3 : State, s3.me = t2.me → ∃ t3, exec i s3 = .next t3 ∧ t3 = s3.setMe t3.me ∧
            sameOperands s1.me t3.me ∧ t3.me.phase = .idle ∧ t3.me.r0 = 0 ∧ t3.me.av = true ∧
            t3.me.r1 = s1.base + index s2

/-! ### The data path, run without interference -/

/-- Derived (42_copy.md sections 1 and 2, D14, D16, D17): WRITE on a usable buffer with a buffer of the caller's that
neither wraps nor overlaps the region. From `μ1`, `2n + 7` micro-steps with `n = min(len, F) > 0`: every answer of
exec on the way is a next state, and the last one has the source bytes in the ring from `WPOS` on (wrapping), no other
byte of memory changed, `WPOS` advanced by `n`, the event appended if a hook is installed, and the count as the
result. -/
def Obligations.WriteCopiesPublishesAndReports : Prop :=
  ∀ (s : State) (a : Nat) (len : Nat) (n : Nat), s.atMu 1 → Usable s →
    n = min len (freeSpace s.wpos s.rpos s.cap) → 0 < n → a + n ≤ s.widths.memSize →
    rangesOverlap a n s.base s.cap = false →
    ∃ s1 t, exec (.write (some a) len) s = .next s1 ∧ execs (.write (some a) len) (2 * n + 6) s1 = .next t ∧
      (∀ j, j < n →
        t.mem.load (s.base + adv s.wpos j s.cap) = s.mem.load (a + j)) ∧
      (∀ x, (∀ j, j < n → x ≠ s.base + adv s.wpos j s.cap) → t.mem.load x = s.mem.load x) ∧
      t.wpos = adv s.wpos n s.cap ∧ t.rpos = s.rpos ∧ t.evq = s.evq ++ eventsOf s .write n ∧
      countResult n t ∧ sameBinding s t ∧ sameHook s t ∧ sameSurroundings s t

/-- Derived (42_copy.md sections 1 and 3, D14, D16, D17): READ, the mirror of WRITE: the oldest `n = min(len, U) > 0`
bytes of the ring are in the caller's buffer, no other byte changed, `RPOS` advanced by `n`. -/
def Obligations.ReadCopiesConsumesAndReports : Prop :=
  ∀ (s : State) (a : Nat) (len : Nat) (n : Nat), s.atMu 1 → Usable s →
    n = min len (usedSpace s.wpos s.rpos s.cap) → 0 < n → a + n ≤ s.widths.memSize →
    rangesOverlap a n s.base s.cap = false →
    ∃ s1 t, exec (.read (some a) len) s = .next s1 ∧ execs (.read (some a) len) (2 * n + 6) s1 = .next t ∧
      (∀ j, j < n →
        t.mem.load (a + j) = s.mem.load (s.base + adv s.rpos j s.cap)) ∧
      (∀ x, ¬ inRange a n x → t.mem.load x = s.mem.load x) ∧
      t.rpos = adv s.rpos n s.cap ∧ t.wpos = s.wpos ∧ t.evq = s.evq ++ eventsOf s .read n ∧
      countResult n t ∧ sameBinding s t ∧ sameHook s t ∧ sameSurroundings s t

/-- Derived (42_copy.md sections 1 and 4, D3, D14, D16): PEEK copies `n = min(len, U − skip) > 0` bytes from `skip`
bytes past the oldest one, stores no index and emits no event. -/
def Obligations.PeekCopiesAndLeavesTheRing : Prop :=
  ∀ (s : State) (a : Nat) (len skip : Nat) (n : Nat), s.atMu 1 → Usable s →
    n = min len (usedSpace s.wpos s.rpos s.cap - skip) → 0 < n → a + n ≤ s.widths.memSize →
    rangesOverlap a n s.base s.cap = false →
    ∃ s1 t, exec (.peek (some a) len skip) s = .next s1 ∧ execs (.peek (some a) len skip) (2 * n + 4) s1 = .next t ∧
      (∀ j, j < n →
        t.mem.load (a + j) =
          s.mem.load (s.base + adv s.rpos (skip + j) s.cap)) ∧
      (∀ x, ¬ inRange a n x → t.mem.load x = s.mem.load x) ∧
      sameIndices s t ∧ t.evq = s.evq ∧ countResult n t ∧ sameBinding s t ∧ sameHook s t ∧ sameSurroundings s t

/-- Derived (43_index_only.md, D18 not used: `n > 0`): SKIP advances `RPOS` by `n = min(len, U)`, ADVANCE `WPOS` by
`n = min(len, F)`, in seven micro-steps, with the event and the count, and no memory access. -/
def Obligations.IndexMovesClampPublishAndReport : Prop :=
  (∀ (s : State) (len : Nat) (n : Nat), s.atMu 1 → Usable s →
    n = min len (usedSpace s.wpos s.rpos s.cap) → 0 < n →
    ∃ s1 t, exec (.skip len) s = .next s1 ∧ execs (.skip len) 6 s1 = .next t ∧
      t.rpos = adv s.rpos n s.cap ∧ t.wpos = s.wpos ∧ t.evq = s.evq ++ eventsOf s .read n ∧
      t.mem = s.mem ∧ countResult n t ∧ sameBinding s t ∧ sameHook s t ∧ sameSurroundings s t) ∧
  (∀ (s : State) (len : Nat) (n : Nat), s.atMu 1 → Usable s →
    n = min len (freeSpace s.wpos s.rpos s.cap) → 0 < n →
    ∃ s1 t, exec (.advance len) s = .next s1 ∧ execs (.advance len) 6 s1 = .next t ∧
      t.wpos = adv s.wpos n s.cap ∧ t.rpos = s.rpos ∧ t.evq = s.evq ++ eventsOf s .write n ∧
      t.mem = s.mem ∧ countResult n t ∧ sameBinding s t ∧ sameHook s t ∧ sameSurroundings s t)

/-- Derived (45_reset_op.md, D9, D21; that it also runs with the other port at `RUN(1)`, issued but past no
micro-step, is the model's choice, log 10): RESET of a ready buffer with the other port quiescent: both indices 0, one
`RESET(0)` event if a hook is installed, nothing else; used space is then 0, free space `N − 1`, the linear read
length 0 and the linear write length `N − 1`. -/
def Obligations.ResetEmptiesTheReadyBuffer : Prop :=
  ∀ s : State, s.atMu 1 → s.bound = true → s.opposite.phase.mu ≤ 1 →
    ∃ s1 t, exec .reset s = .next s1 ∧ execs .reset 3 s1 = .next t ∧ t.wpos = 0 ∧ t.rpos = 0 ∧
      t.evq = s.evq ++ eventsOf s .reset 0 ∧ zeroResult t ∧ t.mem = s.mem ∧ sameBinding s t ∧ sameHook s t ∧
      sameSurroundings s t ∧
      usedSpace t.wpos t.rpos t.cap = 0 ∧
      freeSpace t.wpos t.rpos t.cap = s.cap - 1 ∧
      linRead t.wpos t.rpos t.cap = 0 ∧
      linWrite t.wpos t.rpos t.cap = s.cap - 1

/-- Derived (42_copy.md sections 1 to 4, 43_index_only.md; for SKIP and ADVANCE that no event is emitted is D18, log
19): where nothing can be moved, the command ends at its fourth micro-step with the zero result and has changed
nothing. -/
def Obligations.NothingToMoveChangesNothing : Prop :=
  ∀ (s : State) (i : Instr), s.atMu 1 → Usable s →
    (∃ a len, len ≠ 0 ∧ (i = .write (some a) len ∨ i = .advance len) ∧
      freeSpace s.wpos s.rpos s.cap = 0) ∨
    (∃ a len, len ≠ 0 ∧ (i = .read (some a) len ∨ i = .skip len) ∧
      usedSpace s.wpos s.rpos s.cap = 0) ∨
    (∃ a len skip, len ≠ 0 ∧ i = .peek (some a) len skip ∧
      usedSpace s.wpos s.rpos s.cap ≤ skip) →
    ∃ t, execs i 4 s = .next t ∧ zeroResult t ∧ sameBinding s t ∧ sameHook s t ∧ sameIndices s t ∧ t.mem = s.mem ∧
      t.evq = s.evq ∧ sameSurroundings s t

/-- Derived (93_implementation_defined.md U4; log 12): a caller's buffer of `n > 0` bytes that wraps past `2^AW`, or
overlaps the region, has no meaning: WRITE, READ and PEEK stop at the end of their snapshot. -/
def Obligations.CopyStopsOnABadCallerBuffer : Prop :=
  ∀ (s : State) (i : Instr) (a : Nat) (len : Nat) (n : Nat), s.atMu 1 → Usable s → 0 < n →
    (i = .write (some a) len ∧ n = min len (freeSpace s.wpos s.rpos s.cap)) ∨
    (i = .read (some a) len ∧ n = min len (usedSpace s.wpos s.rpos s.cap)) ∨
    (∃ skip, i = .peek (some a) len skip ∧
      n = min len (usedSpace s.wpos s.rpos s.cap - skip)) →
    (s.widths.memSize < a + n → execs i 4 s = .refused .bufferWraps) ∧
    (a + n ≤ s.widths.memSize → rangesOverlap a n s.base s.cap = true →
      execs i 4 s = .refused .bufferOverlapsRegion)

/-- Derived (43_index_only.md, the rule's own inference): with respect to the indices, the events and the result,
`SKIP n` equals a `READ` of `n` bytes and `ADVANCE n` equals a `WRITE` of `n` bytes; they access no memory. -/
def Obligations.IndexMovesMatchTheCopies : Prop :=
  ∀ (s : State) (a : Nat) (len : Nat) (n : Nat), s.atMu 1 → Usable s → 0 < n → a + n ≤ s.widths.memSize →
    rangesOverlap a n s.base s.cap = false →
    ∀ copy move : Instr,
      (copy = .read (some a) len ∧ move = .skip len ∧
        n = min len (usedSpace s.wpos s.rpos s.cap)) ∨
      (copy = .write (some a) len ∧ move = .advance len ∧
        n = min len (freeSpace s.wpos s.rpos s.cap)) →
      ∃ t u, execs copy (2 * n + 7) s = .next t ∧ execs move 7 s = .next u ∧
        t.wpos = u.wpos ∧ t.rpos = u.rpos ∧ t.evq = u.evq ∧ t.me.phase = u.me.phase ∧ sameResults t.me u.me ∧
        u.mem = s.mem

/-- Derived (42_copy.md section 5): the round-trip law: on an empty buffer, WRITE of `n` bytes on port `P` followed by
READ of `n` bytes on port `C` delivers the identical bytes, for every `n` from 1 up to the free space, across the wrap
too, and leaves the buffer empty. -/
def Obligations.WriteThenReadReturnsTheBytes : Prop :=
  ∀ (s : State) (a d : Nat) (len : Nat) (n : Nat), s.cur = .P → s.atMu 1 → s.portC.phase = .run 1 → Usable s →
    s.wpos = s.rpos → n = len → 0 < n → n ≤ freeSpace s.wpos s.rpos s.cap →
    a + n ≤ s.widths.memSize → rangesOverlap a n s.base s.cap = false →
    d + n ≤ s.widths.memSize → rangesOverlap d n s.base s.cap = false →
    ∃ t u, execs (.write (some a) len) (2 * n + 7) s = .next t ∧
      execs (.read (some d) len) (2 * n + 7) { t with cur := .C } = .next u ∧
      t.portP.r0 = len ∧ u.portC.r0 = len ∧ u.wpos = u.rpos ∧
      ∀ j, j < n → u.mem.load (d + j) = s.mem.load (a + j)

/-! ### Frames -/

/-- Derived (44_linear.md section 4, 41_accounting.md sections 2 and 3, D31): a micro-step of ISREADY, FREE, USED,
LRADDR, LRLEN, LWADDR or LWLEN changes nothing but the stepping port's results, phase and temporaries. -/
def Obligations.QueriesChangeTheirPortOnly : Prop :=
  ∀ (i : Instr) (s t : State), i ∈ [Instr.isready, .free, .used, .lraddr, .lrlen, .lwaddr, .lwlen] →
    exec i s = .next t → t = s.setMe t.me ∧ sameOperands s.me t.me

/-- Derived (42_copy.md sections 2 to 4, 10_state.md R30): what a micro-step of WRITE, READ or PEEK leaves alone. A
form that stores to memory stores to the one address its meaning computes; every other byte, and all of memory
otherwise, is as before. A form that reads memory reads the byte at the one address its meaning computes into `t`;
otherwise `t` stays. -/
def Obligations.CopyFrame : Prop :=
  ∀ (i : Instr) (s t : State),
    (∃ p len, i = .write p len) ∨ (∃ p len, i = .read p len) ∨ (∃ p len skip, i = .peek p len skip) →
    exec i s = .next t →
    sameBinding s t ∧ sameHook s t ∧ sameSurroundings s t ∧
    ((∃ p len, i = .write p len) ∨ t.wpos = s.wpos) ∧ ((∃ p len, i = .read p len) ∨ t.rpos = s.rpos) ∧
    (∀ a, storeAddr i s = some a → t.mem.load a = s.me.tmp.t ∧ ∀ x, x ≠ a → t.mem.load x = s.mem.load x) ∧
    (storeAddr i s = none → ∀ x, t.mem.load x = s.mem.load x) ∧
    (∀ a, loadAddr i s = some a → t.me.tmp.t = s.mem.load a) ∧
    (loadAddr i s = none → t.me.tmp.t = s.me.tmp.t)

/-- Derived (40_lifecycle.md section 1, 43_index_only.md, 45_reset_op.md): a micro-step of INIT, DETACH, SETNTFY, SKIP,
ADVANCE or RESET accesses no memory; what else each leaves alone. -/
def Obligations.NonCopyFrame : Prop :=
  ∀ (s t : State) (p : Option Nat) (w : Nat),
    (exec (.init p w) s = .next t → t.mem = s.mem ∧ t.evq = s.evq ∧ t.nhnd = s.nhnd ∧ sameSurroundings s t) ∧
    (exec .detach s = .next t →
      t.mem = s.mem ∧ t.evq = s.evq ∧ sameHook s t ∧ sameIndices s t ∧ t.base = s.base ∧ t.cap = s.cap ∧
        sameSurroundings s t) ∧
    (exec (.setntfy p) s = .next t →
      t.mem = s.mem ∧ t.evq = s.evq ∧ sameBinding s t ∧ sameIndices s t ∧ sameSurroundings s t) ∧
    (exec (.skip w) s = .next t →
      t.mem = s.mem ∧ sameBinding s t ∧ sameHook s t ∧ t.wpos = s.wpos ∧ sameSurroundings s t) ∧
    (exec (.advance w) s = .next t →
      t.mem = s.mem ∧ sameBinding s t ∧ sameHook s t ∧ t.rpos = s.rpos ∧ sameSurroundings s t) ∧
    (exec .reset s = .next t → t.mem = s.mem ∧ sameBinding s t ∧ sameHook s t ∧ sameSurroundings s t)

/-- Derived (10_state.md section 4, D9, D25): the operand registers never change while a command runs, and the result
registers change only at its `Complete`. -/
def Obligations.OnlyCompleteWritesResults : Prop :=
  ∀ (i : Instr) (s t : State), exec i s = .next t →
    sameOperands s.me t.me ∧ t.opposite = s.opposite ∧ (t.me.phase ≠ .idle → sameResults s.me t.me)

/-! ### Whole-machine rules -/

/-- Derived (10_state.md section 3, 90_conflicts.md C2): WRITE and ADVANCE store only `WPOS`, READ and SKIP only
`RPOS`, PEEK and the queries neither; INIT and RESET store both, as 0; on whichever port the command runs. -/
def Obligations.EachIndexHasItsWriters : Prop :=
  (∀ (i : Instr) (s t : State), exec i s = .next t → t.wpos ≠ s.wpos →
    (∃ p len, i = .write p len) ∨ (∃ len, i = .advance len) ∨ (((∃ p cap, i = .init p cap) ∨ i = .reset) ∧ t.wpos = 0)) ∧
  (∀ (i : Instr) (s t : State), exec i s = .next t → t.rpos ≠ s.rpos →
    (∃ p len, i = .read p len) ∨ (∃ len, i = .skip len) ∨ (((∃ p cap, i = .init p cap) ∨ i = .reset) ∧ t.rpos = 0)) ∧
  (∀ (i : Instr) (s t : State), exec i s = .next t → ((∃ p cap, i = .init p cap) ∧ t.me.r0 = 1) ∨ (i = .reset ∧ t.atMu 3) →
    t.wpos = 0 ∧ t.rpos = 0)

/-- Derived (10_state.md section 6; that an illegal word too answers the zero result is D7, log 15, and that a failed
INIT leaves a ready buffer alone is D11, log 18, both choices): the two-state lifecycle, over every step of the
machine. It becomes ready only by an INIT that answers 1 (and such an INIT binds and zeroes the indices, from either
state); it becomes not ready only by DETACH, which leaves capacity and indices as they are, or by the hardware reset,
and both make it not ready; while it is not ready a command other than INIT completes with the zero result (ISREADY's
answer is then 0 too) and changes nothing shared; a failed INIT leaves it as it was. -/
def Obligations.LifecycleIsTwoStates : Prop :=
  (∀ s t : State, step s = .next t → s.bound = false → t.bound = true →
    ∃ p a cap, s.turn = .run p ∧ s.runs p (.init (some a) cap) ∧ cap ≠ 0 ∧ (t.port p).r0 = 1 ∧ t.base = a ∧ t.cap = cap ∧
      t.wpos = 0 ∧ t.rpos = 0) ∧
  (∀ s t : State, step s = .next t → s.bound = true → t.bound = false →
    s.turn = .hwReset ∨
      ∃ p, s.turn = .run p ∧ s.runs p .detach ∧ t.base = s.base ∧ t.cap = s.cap ∧ sameIndices s t) ∧
  (∀ (s t : State) (p : Port), step s = .next t → s.bound = false → s.turn = .run p → (s.port p).phase = .run 1 →
    (∀ r cap, ¬ s.runs p (.init r cap)) → sameBinding s t ∧ sameHook s t ∧ sameIndices s t ∧ t.mem = s.mem ∧ t.evq = s.evq ∧
      (t.port p).phase = .idle ∧ (t.port p).r0 = 0 ∧ (t.port p).r1 = 0 ∧ (t.port p).av = false) ∧
  (∀ (s t : State) (region : Option Nat) (cap : Nat), exec (.init region cap) s = .next t →
    (t.me.r0 = 0 → sameBinding s t ∧ sameIndices s t) ∧
    (t.me.r0 = 1 → t.bound = true ∧ region = some t.base ∧ cap = t.cap ∧ t.wpos = 0 ∧ t.rpos = 0) ∧
    (t.me.r0 = 0 ∨ t.me.r0 = 1)) ∧
  (∀ s t : State, exec .detach s = .next t → t.bound = false ∧ t.base = s.base ∧ t.cap = s.cap ∧ sameIndices s t) ∧
  (∀ s t : State, step s = .next t → s.turn = .hwReset → t.bound = false)

/-- Derived (60_exceptions.md section 2, 10_state.md section 6): one enable for all three kinds. Over every step of
the machine `NEN` changes only by SETNTFY, by a successful INIT under `INIT_NOTIFY_POLICY = CLEAR`, which always
clears it, or by the hardware reset. With `NEN = 0` no step appends an event, so one that occurs then is lost; with
`NEN = 1` the emit micro-step of WRITE, ADVANCE, READ, SKIP and RESET appends its record whatever its kind. The
history only grows but for the hardware reset. -/
def Obligations.OneEnableForAllEvents : Prop :=
  (∀ s t : State, step s = .next t → t.nen ≠ s.nen →
    s.turn = .hwReset ∨
      (∃ p h, s.turn = .run p ∧ s.runs p (.setntfy h) ∧ t.nen = h.isSome) ∨
      (∃ p r cap, s.turn = .run p ∧ s.runs p (.init r cap) ∧ (t.port p).r0 = 1 ∧ t.nen = false ∧
        Config.initNotifyPolicy = .clear)) ∧
  (∀ (s t : State) (r : Option Nat) (cap : Nat), exec (.init r cap) s = .next t → t.me.r0 = 1 →
    Config.initNotifyPolicy = .clear → t.nen = false) ∧
  (∀ s t : State, step s = .next t → s.turn ≠ .hwReset → s.nen = false → t.evq = s.evq) ∧
  (∀ (i : Instr) (s : State) (k : EventKind) (c : Nat), EmitsAt i s k c → s.nen = true →
    ∃ t, exec i s = .next t ∧ t.evq = s.evq ++ [{ port := s.cur, handle := s.nhnd, kind := k, count := c }]) ∧
  (∀ s t : State, step s = .next t → s.turn ≠ .hwReset → ∃ es, t.evq = s.evq ++ es ∧ es.length ≤ 1)

/-- Derived (60_exceptions.md section 2, D18, D19): the complete list of what emits what: a micro-step appends at most
one record, with the port that runs, the live handle and the count of the command; only WRITE and ADVANCE emit
`WRITE`, only READ and SKIP `READ`, only RESET `RESET(0)`. -/
def Obligations.EventsComeFromTheirSources : Prop :=
  ∀ (i : Instr) (s t : State), exec i s = .next t → t.evq ≠ s.evq →
    s.nen = true ∧
    ∃ k c, t.evq = s.evq ++ [{ port := s.cur, handle := s.nhnd, kind := k, count := c }] ∧
      (((∃ p len, i = .write p len) ∨ (∃ len, i = .advance len)) ∧ k = .write ∧ c = s.me.tmp.n ∨
       ((∃ p len, i = .read p len) ∨ (∃ len, i = .skip len)) ∧ k = .read ∧ c = s.me.tmp.n ∨
       i = .reset ∧ k = .reset ∧ c = 0)

/-- Derived (10_state.md section 4, 60_exceptions.md section 4, D22): the two ports are identical: exchanging them in
the state exchanges them in every command's answer. -/
def Obligations.ThePortsAreIdentical : Prop :=
  ∀ (i : Instr) (s : State), exec i s.swapPorts = swapResult (exec i s)

/-! ### Invariants -/

/-- Derived (10_state.md section 6; log 1, log 6): the invariant holds after reset, whatever the widths; `State.reset`
is the case of the default ones. -/
def Obligations.InvariantAtReset : Prop := ∀ ws : Widths, 1 ≤ ws.w → Inv (State.resetAt ws)

/-- Derived (00_scope.md R9, 10_state.md R27, 20_memory.md R51, R59, 42_copy.md R140): from every state that meets it,
whoever moves, a step keeps the invariant: a ready buffer's indices stay below its capacity and its region inside the
address space, a command in flight runs on the binding it latched and is at one of its own micro-steps with its
clamped length, memory keeps its canonical form, and every register and event record holds a value of its width. The
widths themselves never change. -/
def Obligations.StepKeepsTheInvariant : Prop :=
  ∀ s t : State, Inv s → step s = .next t → Inv t ∧ t.widths = s.widths

/-- Derived (60_exceptions.md section 1; log 17): no exception is ever raised: from every state that meets the
invariant a step never faults. -/
def Obligations.StepNeverFaults : Prop :=
  ∀ (s : State) (f : Fault), Inv s → step s ≠ .fault f

/-- Derived (70_reset_and_hazards.md section 4, D30; log 10 to 12): the turn of a port with a command in flight is
refused exactly where `StopsAs` says, by the refusal of that situation: the other port past its ready check when INIT
binds, DETACH unbinds or RESET zeroes; INIT of a region that wraps; the plan of a copy whose caller's buffer wraps or
overlaps the region. Everywhere else the port moves to its next micro-step or completes. -/
def Obligations.RunningPortAlwaysMoves : Prop :=
  ∀ (s : State) (p : Port) (k : Nat), Inv s → s.turn = .run p → (s.port p).phase = .run k →
    (∃ i r, decode (s.port p).packet = .ok i ∧ StopsAs i { s.tookTurn with cur := p } r ∧ step s = .refused r) ∨
    ((∀ i r, decode (s.port p).packet = .ok i → ¬ StopsAs i { s.tookTurn with cur := p } r) ∧
      ∃ t, step s = .next t ∧ ((t.port p).phase = .idle ∨ (t.port p).phase = .run (k + 1)))

/-- Derived (70_reset_and_hazards.md section 4, D30): every command ends within `2N + 5` micro-steps. Each turn of a
running port that is not refused completes its command or moves it on by one micro-step; no other turn moves it, but
for the hardware reset, which abandons it; and no step leaves a port past `μ(2N + 5)`. -/
def Obligations.CommandsEndWithinTheirBound : Prop :=
  ∀ s t : State, Inv s → step s = .next t → ∀ (p : Port) (k : Nat), (s.port p).phase = .run k →
    (s.turn = .run p →
      (t.port p).phase = .idle ∨ ((t.port p).phase = .run (k + 1) ∧ k + 1 ≤ 2 * t.cap + 5)) ∧
    (s.turn ≠ .run p → s.turn ≠ .hwReset → (t.port p).phase = .run k ∧ k ≤ 2 * t.cap + 5) ∧
    (s.turn = .hwReset → (t.port p).phase = .idle)

/-- Derived (41_accounting.md R135; log 1, log 6): nothing is in flight after reset, whatever the widths, so roles and
snapshots are sound there. -/
def Obligations.SnapshotsSoundAtReset : Prop :=
  ∀ ws : Widths, Roles (State.resetAt ws) ∧ Conservative (State.resetAt ws)

/-- Derived (41_accounting.md R135, the spec's own inference): under the role contract, whoever moves, a step keeps
every snapshot in flight conservative: the producer's own index is live and the free space it clamps to is at most the
true one, and likewise the consumer's used space. -/
def Obligations.SnapshotsStayConservative : Prop :=
  ∀ s t : State, Inv s → Roles s → Conservative s → roleTurn s.turn → step s = .next t → Roles t ∧ Conservative t

/-- Derived (20_memory.md R66, 10_state.md R31, the spec's own inferences): under the role contract the producer's
next `MemWrite` goes to an index outside the used range and not to the sentinel slot, and the consumer's next
`MemRead` from the region is from an index inside the used range, both by the live indices. -/
def Obligations.CopiesStayInTheirRanges : Prop :=
  ∀ s : State, Inv s → Roles s → Conservative s →
    (∀ src len x, s.runs .P (.write src len) → storeAddr (.write src len) { s with cur := .P } = some x →
      ∃ j, x = s.base + j ∧ j < s.cap ∧
        usedSpace s.wpos s.rpos s.cap ≤ usedSpace j s.rpos s.cap ∧
        usedSpace j s.rpos s.cap + 1 < s.cap) ∧
    (∀ i x, s.runs .C i → (∃ dst len, i = .read dst len) ∨ (∃ dst len skip, i = .peek dst len skip) →
      loadAddr i { s with cur := .C } = some x →
      ∃ j, x = s.base + j ∧ j < s.cap ∧
        usedSpace j s.rpos s.cap < usedSpace s.wpos s.rpos s.cap)

/-- Derived (42_copy.md R146, 20_memory.md R61, R62, under the contract of 60_exceptions.md R203 and R228): the ring
is a FIFO under every interleaving. Whoever moves, a step of a ready buffer leaves its contents as they are, or is the
producer's one index store and appends that command's `n` bytes, or is the consumer's and removes that command's `n`
oldest, or is the producer's INIT or RESET and empties it. -/
def Obligations.TheRingIsAFifo : Prop :=
  ∀ s t : State, Inv s → Roles s → Conservative s → roleTurn s.turn → s.bound = true →
    (∀ a v, s.turn = .outsideWrite a v → ¬ inRegion s (a % s.widths.memSize)) → step s = .next t → t.bound = true →
    content t = content s ∨
    (s.turn = .run .P ∧ ((∃ src len, s.runs .P (.write src len)) ∨ (∃ len, s.runs .P (.advance len))) ∧
      ∃ bs, content t = content s ++ bs ∧ bs.length = s.portP.tmp.n) ∨
    (s.turn = .run .C ∧ ((∃ dst len, s.runs .C (.read dst len)) ∨ (∃ len, s.runs .C (.skip len))) ∧
      s.portC.tmp.n ≤ (content s).length ∧ content t = (content s).drop s.portC.tmp.n) ∨
    (s.turn = .run .P ∧ ((∃ r cap, s.runs .P (.init r cap)) ∨ s.runs .P .reset) ∧ content t = [])

/-- Derived (42_copy.md R140, R146, 20_memory.md R52, under the contract of 60_exceptions.md R203 and
70_reset_and_hazards.md R228, R231): under every interleaving the bytes a WRITE in flight has copied are its source's,
the bytes a READ in flight has copied are the ring's oldest, and those a PEEK in flight has copied the ring's from its
skip count on, in order, as long as nobody else stores into their buffers or from outside into the region. With
`TheRingIsAFifo`: the bytes read are the bytes written, in order. -/
def Obligations.CopiesInFlightAreFaithful : Prop :=
  ∀ s t : State, Inv s → Roles s → Conservative s → roleTurn s.turn → buffersLeftAlone s →
    writeFaithful s → readFaithful s → peekFaithful s → step s = .next t →
    writeFaithful t ∧ readFaithful t ∧ peekFaithful t
end

