-- ==== Sys2Proof/Laws/Arith.lean ====
section
/-! SUPPORT. Ranges of the pure functions, and where a two-segment copy puts its bytes. -/

namespace Sys2Proof.Machine

theorem usedSpace_lt {w r N : Nat} (hw : w < N) (hr : r < N) : usedSpace w r N < N := by
  unfold usedSpace
  split_ifs <;> omega

theorem freeSpace_lt {w r N : Nat} (hw : w < N) : freeSpace w r N < N := by
  unfold freeSpace
  omega

theorem adv_lt {x k N : Nat} (hx : x < N) (hk : k ≤ N) : adv x k N < N := by
  unfold adv
  split_ifs <;> omega

theorem linRead_lt {w r N : Nat} (hw : w < N) : linRead w r N < N := by
  unfold linRead
  split_ifs <;> omega

theorem linWrite_lt {w r N : Nat} (hw : w < N) (hr : r < N) : linWrite w r N < N := by
  unfold linWrite
  split_ifs <;> omega

/-- Byte `i` of a copy of `n` bytes from index `s` is at region index `adv(s, i, N)` (R140). -/
theorem segAddr_eq_adv {b s n N i : Nat} (hs : s < N) (hi : i < n) :
    segAddr b s (firstSegment s n N) i = b + adv s i N := by
  unfold segAddr firstSegment adv
  rcases Nat.le_total (N - s) n with h | h
  · rw [Nat.min_eq_left h]
    split_ifs <;> omega
  · rw [Nat.min_eq_right h]
    split_ifs <;> omega

/-- Different bytes of a copy are at different indices. -/
theorem adv_injective {s i j N : Nat} (hi : i < N) (hj : j < N) (h : adv s i N = adv s j N) : i = j := by
  unfold adv at h
  split_ifs at h <;> omega

/-- Advancing in two parts. -/
theorem adv_adv {s i j N : Nat} (hs : s < N) (hij : i + j ≤ N) : adv (adv s i N) j N = adv s (i + j) N := by
  unfold adv
  split_ifs <;> omega

theorem wordSize_pos (ws : Widths) : 0 < ws.wordSize := Nat.two_pow_pos _

theorem memSize_pos (ws : Widths) : 0 < ws.memSize := Nat.two_pow_pos _

/-- A `W`-bit register holds R84's 1, whatever `W ≥ 1` is. -/
theorem one_lt_wordSize {ws : Widths} (h : 1 ≤ ws.w) : 1 < ws.wordSize := Nat.one_lt_two_pow (by omega)

/-- What a port receives fits its operand registers. -/
theorem onWires_lt (p : Packet) (ws : Widths) :
    (p.onWires ws).a0 < ws.memSize ∧ (p.onWires ws).a1 < ws.wordSize ∧ (p.onWires ws).a2 < ws.wordSize :=
  ⟨Nat.mod_lt _ (memSize_pos ws), Nat.mod_lt _ (wordSize_pos ws), Nat.mod_lt _ (wordSize_pos ws)⟩

/-- A packet that fits is received as it is. -/
theorem onWires_of_lt {p : Packet} {ws : Widths} (h0 : p.a0 < ws.memSize) (h1 : p.a1 < ws.wordSize)
    (h2 : p.a2 < ws.wordSize) : p.onWires ws = p := by
  simp [Packet.onWires, Nat.mod_eq_of_lt, h0, h1, h2]

@[simp] theorem onWires_onWires (p : Packet) (ws : Widths) : (p.onWires ws).onWires ws = p.onWires ws := by
  simp [Packet.onWires]

@[simp] theorem onWires_cw (p : Packet) (ws : Widths) : (p.onWires ws).cw = p.cw := rfl

end Sys2Proof.Machine
end

