-- ==== Sys2Proof/Laws/Decode.lean ====
section
/-! SUPPORT. The opcode table's rows do not overlap, and the fields of an encoded word. -/

namespace Sys2Proof

/-- No word can match two rows: wherever two masks overlap, the patterns differ somewhere. -/
theorem opcodeTable_rows_disjoint :
    opcodeTable.Pairwise (fun a b => a.pattern &&& (a.mask &&& b.mask) ≠ b.pattern &&& (a.mask &&& b.mask)) := by
  decide

/-- Each row's pattern lies inside its mask. -/
theorem opcodeTable_patterns_inside : ∀ r ∈ opcodeTable, r.pattern &&& r.mask = r.pattern := by decide

/-- The fields of a word as arithmetic. -/
theorem opcField_eq (cw : BitVec 32) : opcField cw = cw.toNat % 256 := by
  simp [opcField, BitVec.extractLsb'_toNat]

theorem rsvField_eq (cw : BitVec 32) : rsvField cw = cw.toNat / 512 := by
  have := cw.isLt
  simp only [rsvField, BitVec.extractLsb'_toNat, Nat.shiftRight_eq_div_pow]
  omega

theorem pvField_eq (cw : BitVec 32) : pvField cw = decide (cw.toNat / 256 % 2 = 1) := by
  simp [pvField, BitVec.getLsbD, Nat.testBit_eq_decide_div_mod_eq]

/-- The fields of an encoded command word. -/
theorem encodeFields_fields (opc : Nat) (hopc : opc < 256) (ptr : Option Nat) (a1 a2 : Nat) :
    opcField (encodeFields opc ptr a1 a2).cw = opc ∧ pvField (encodeFields opc ptr a1 a2).cw = ptr.isSome ∧
      rsvField (encodeFields opc ptr a1 a2).cw = 0 := by
  rw [opcField_eq, pvField_eq, rsvField_eq]
  cases ptr with
  | none =>
    have h : (encodeFields opc none a1 a2).cw.toNat = opc := by simp [encodeFields]; omega
    rw [h]
    simp only [Option.isSome_none, decide_eq_false_iff_not]
    omega
  | some a =>
    have h : (encodeFields opc (some a) a1 a2).cw.toNat = opc + 256 := by simp [encodeFields]; omega
    rw [h]
    simp only [Option.isSome_some, decide_eq_true_eq]
    omega

/-- Decoding an encoded packet is reading its row on its own operands. -/
theorem decode_encodeFields (opc : Nat) (hopc : opc < 256) (ptr : Option Nat) (a1 a2 : Nat) :
    decode (encodeFields opc ptr a1 a2) = decodeOpc opc ptr.isSome (encodeFields opc ptr a1 a2) := by
  obtain ⟨h1, h2, h3⟩ := encodeFields_fields opc hopc ptr a1 a2
  rw [decode, h1, h2, h3]
  simp

/-- A pointer operand is read back from its two fields. -/
theorem ptrOperand_fields (x : Option Nat) : ptrOperand x.isSome (x.getD 0) = x := by cases x <;> rfl

end Sys2Proof
end

