-- ==== Sys2Proof/Laws/State.lean ====
section
/-! SUPPORT. One lemma for each field and each state update: what `setPort`, `setMe`, `goOn`, `complete`, `emit` and the index stores leave in every field. -/

namespace Sys2Proof.Machine

@[simp] theorem other_other (p : Port) : p.other.other = p := by cases p <;> rfl

@[simp] theorem other_ne (p : Port) : p.other ≠ p := by cases p <;> decide

@[simp] theorem ne_other (p : Port) : p ≠ p.other := by cases p <;> decide

@[simp] theorem setPort_port_self (s : State) (p : Port) (x : PortRegs) : (s.setPort p x).port p = x := by
  cases p <;> rfl

@[simp] theorem setPort_port_other (s : State) (p : Port) (x : PortRegs) :
    (s.setPort p x).port p.other = s.port p.other := by cases p <;> rfl

theorem setPort_port_ne (s : State) {p q : Port} (x : PortRegs) (h : q ≠ p) : (s.setPort p x).port q = s.port q := by
  cases p <;> cases q <;> first | rfl | exact absurd rfl h

@[simp] theorem setPort_widths (s : State) (p : Port) (x : PortRegs) : (s.setPort p x).widths = s.widths := by cases p <;> rfl

@[simp] theorem setPort_bound (s : State) (p : Port) (x : PortRegs) : (s.setPort p x).bound = s.bound := by cases p <;> rfl

@[simp] theorem setPort_base (s : State) (p : Port) (x : PortRegs) : (s.setPort p x).base = s.base := by cases p <;> rfl

@[simp] theorem setPort_cap (s : State) (p : Port) (x : PortRegs) : (s.setPort p x).cap = s.cap := by cases p <;> rfl

@[simp] theorem setPort_wpos (s : State) (p : Port) (x : PortRegs) : (s.setPort p x).wpos = s.wpos := by cases p <;> rfl

@[simp] theorem setPort_rpos (s : State) (p : Port) (x : PortRegs) : (s.setPort p x).rpos = s.rpos := by cases p <;> rfl

@[simp] theorem setPort_nen (s : State) (p : Port) (x : PortRegs) : (s.setPort p x).nen = s.nen := by cases p <;> rfl

@[simp] theorem setPort_nhnd (s : State) (p : Port) (x : PortRegs) : (s.setPort p x).nhnd = s.nhnd := by cases p <;> rfl

@[simp] theorem setPort_mem (s : State) (p : Port) (x : PortRegs) : (s.setPort p x).mem = s.mem := by cases p <;> rfl

@[simp] theorem setPort_evq (s : State) (p : Port) (x : PortRegs) : (s.setPort p x).evq = s.evq := by cases p <;> rfl

@[simp] theorem setPort_cur (s : State) (p : Port) (x : PortRegs) : (s.setPort p x).cur = s.cur := by cases p <;> rfl

@[simp] theorem setPort_sched (s : State) (p : Port) (x : PortRegs) : (s.setPort p x).sched = s.sched := by cases p <;> rfl

@[simp] theorem setPort_tick (s : State) (p : Port) (x : PortRegs) : (s.setPort p x).tick = s.tick := by cases p <;> rfl

@[simp] theorem setPort_self (s : State) (p : Port) : s.setPort p (s.port p) = s := by cases p <;> rfl

@[simp] theorem setPort_setPort (s : State) (p : Port) (x y : PortRegs) : (s.setPort p x).setPort p y = s.setPort p y := by
  cases p <;> rfl

@[simp] theorem setMe_me (s : State) (x : PortRegs) : (s.setMe x).me = x := by
  simp [State.setMe, State.me]

@[simp] theorem setMe_opposite (s : State) (x : PortRegs) : (s.setMe x).opposite = s.opposite := by
  simp [State.setMe, State.opposite]

@[simp] theorem setMe_setMe (s : State) (x y : PortRegs) : (s.setMe x).setMe y = s.setMe y := by
  simp [State.setMe]

@[simp] theorem setMe_widths (s : State) (x : PortRegs) : (s.setMe x).widths = s.widths := by simp [State.setMe]

@[simp] theorem setMe_bound (s : State) (x : PortRegs) : (s.setMe x).bound = s.bound := by simp [State.setMe]

@[simp] theorem setMe_base (s : State) (x : PortRegs) : (s.setMe x).base = s.base := by simp [State.setMe]

@[simp] theorem setMe_cap (s : State) (x : PortRegs) : (s.setMe x).cap = s.cap := by simp [State.setMe]

@[simp] theorem setMe_wpos (s : State) (x : PortRegs) : (s.setMe x).wpos = s.wpos := by simp [State.setMe]

@[simp] theorem setMe_rpos (s : State) (x : PortRegs) : (s.setMe x).rpos = s.rpos := by simp [State.setMe]

@[simp] theorem setMe_nen (s : State) (x : PortRegs) : (s.setMe x).nen = s.nen := by simp [State.setMe]

@[simp] theorem setMe_nhnd (s : State) (x : PortRegs) : (s.setMe x).nhnd = s.nhnd := by simp [State.setMe]

@[simp] theorem setMe_mem (s : State) (x : PortRegs) : (s.setMe x).mem = s.mem := by simp [State.setMe]

@[simp] theorem setMe_evq (s : State) (x : PortRegs) : (s.setMe x).evq = s.evq := by simp [State.setMe]

@[simp] theorem setMe_cur (s : State) (x : PortRegs) : (s.setMe x).cur = s.cur := by simp [State.setMe]

@[simp] theorem setMe_sched (s : State) (x : PortRegs) : (s.setMe x).sched = s.sched := by simp [State.setMe]

@[simp] theorem setMe_tick (s : State) (x : PortRegs) : (s.setMe x).tick = s.tick := by simp [State.setMe]

@[simp] theorem goOn_widths (s : State) (t : Temps) : (s.goOn t).widths = s.widths := by simp [State.goOn]

@[simp] theorem goOn_bound (s : State) (t : Temps) : (s.goOn t).bound = s.bound := by simp [State.goOn]

@[simp] theorem goOn_base (s : State) (t : Temps) : (s.goOn t).base = s.base := by simp [State.goOn]

@[simp] theorem goOn_cap (s : State) (t : Temps) : (s.goOn t).cap = s.cap := by simp [State.goOn]

@[simp] theorem goOn_wpos (s : State) (t : Temps) : (s.goOn t).wpos = s.wpos := by simp [State.goOn]

@[simp] theorem goOn_rpos (s : State) (t : Temps) : (s.goOn t).rpos = s.rpos := by simp [State.goOn]

@[simp] theorem goOn_nen (s : State) (t : Temps) : (s.goOn t).nen = s.nen := by simp [State.goOn]

@[simp] theorem goOn_nhnd (s : State) (t : Temps) : (s.goOn t).nhnd = s.nhnd := by simp [State.goOn]

@[simp] theorem goOn_mem (s : State) (t : Temps) : (s.goOn t).mem = s.mem := by simp [State.goOn]

@[simp] theorem goOn_evq (s : State) (t : Temps) : (s.goOn t).evq = s.evq := by simp [State.goOn]

@[simp] theorem goOn_cur (s : State) (t : Temps) : (s.goOn t).cur = s.cur := by simp [State.goOn]

@[simp] theorem goOn_sched (s : State) (t : Temps) : (s.goOn t).sched = s.sched := by simp [State.goOn]

@[simp] theorem goOn_tick (s : State) (t : Temps) : (s.goOn t).tick = s.tick := by simp [State.goOn]

@[simp] theorem goOn_me (s : State) (t : Temps) :
    (s.goOn t).me = { s.me with tmp := t, phase := s.me.phase.succ } := by simp [State.goOn]

@[simp] theorem goOn_opposite (s : State) (t : Temps) : (s.goOn t).opposite = s.opposite := by simp [State.goOn]

@[simp] theorem complete_widths (s : State) (r : Nat) (a : Option Nat) : (s.complete r a).widths = s.widths := by simp [State.complete]

@[simp] theorem complete_bound (s : State) (r : Nat) (a : Option Nat) : (s.complete r a).bound = s.bound := by simp [State.complete]

@[simp] theorem complete_base (s : State) (r : Nat) (a : Option Nat) : (s.complete r a).base = s.base := by simp [State.complete]

@[simp] theorem complete_cap (s : State) (r : Nat) (a : Option Nat) : (s.complete r a).cap = s.cap := by simp [State.complete]

@[simp] theorem complete_wpos (s : State) (r : Nat) (a : Option Nat) : (s.complete r a).wpos = s.wpos := by simp [State.complete]

@[simp] theorem complete_rpos (s : State) (r : Nat) (a : Option Nat) : (s.complete r a).rpos = s.rpos := by simp [State.complete]

@[simp] theorem complete_nen (s : State) (r : Nat) (a : Option Nat) : (s.complete r a).nen = s.nen := by simp [State.complete]

@[simp] theorem complete_nhnd (s : State) (r : Nat) (a : Option Nat) : (s.complete r a).nhnd = s.nhnd := by simp [State.complete]

@[simp] theorem complete_mem (s : State) (r : Nat) (a : Option Nat) : (s.complete r a).mem = s.mem := by simp [State.complete]

@[simp] theorem complete_evq (s : State) (r : Nat) (a : Option Nat) : (s.complete r a).evq = s.evq := by simp [State.complete]

@[simp] theorem complete_cur (s : State) (r : Nat) (a : Option Nat) : (s.complete r a).cur = s.cur := by simp [State.complete]

@[simp] theorem complete_sched (s : State) (r : Nat) (a : Option Nat) : (s.complete r a).sched = s.sched := by simp [State.complete]

@[simp] theorem complete_tick (s : State) (r : Nat) (a : Option Nat) : (s.complete r a).tick = s.tick := by simp [State.complete]

@[simp] theorem complete_me (s : State) (r : Nat) (a : Option Nat) :
    (s.complete r a).me = { s.me with r0 := r, r1 := addrResult a, av := avFlag a, phase := .idle } := by
  simp [State.complete]

@[simp] theorem complete_opposite (s : State) (r : Nat) (a : Option Nat) : (s.complete r a).opposite = s.opposite := by
  simp [State.complete]

@[simp] theorem completeZero_widths (s : State) : (s.completeZero).widths = s.widths := by simp [State.completeZero]

@[simp] theorem completeZero_bound (s : State) : (s.completeZero).bound = s.bound := by simp [State.completeZero]

@[simp] theorem completeZero_base (s : State) : (s.completeZero).base = s.base := by simp [State.completeZero]

@[simp] theorem completeZero_cap (s : State) : (s.completeZero).cap = s.cap := by simp [State.completeZero]

@[simp] theorem completeZero_wpos (s : State) : (s.completeZero).wpos = s.wpos := by simp [State.completeZero]

@[simp] theorem completeZero_rpos (s : State) : (s.completeZero).rpos = s.rpos := by simp [State.completeZero]

@[simp] theorem completeZero_nen (s : State) : (s.completeZero).nen = s.nen := by simp [State.completeZero]

@[simp] theorem completeZero_nhnd (s : State) : (s.completeZero).nhnd = s.nhnd := by simp [State.completeZero]

@[simp] theorem completeZero_mem (s : State) : (s.completeZero).mem = s.mem := by simp [State.completeZero]

@[simp] theorem completeZero_evq (s : State) : (s.completeZero).evq = s.evq := by simp [State.completeZero]

@[simp] theorem completeZero_cur (s : State) : (s.completeZero).cur = s.cur := by simp [State.completeZero]

@[simp] theorem completeZero_sched (s : State) : (s.completeZero).sched = s.sched := by simp [State.completeZero]

@[simp] theorem completeZero_tick (s : State) : (s.completeZero).tick = s.tick := by simp [State.completeZero]

@[simp] theorem completeZero_me (s : State) :
    s.completeZero.me = { s.me with r0 := 0, r1 := 0, av := false, phase := .idle } := by
  simp [State.completeZero, addrResult, avFlag]

@[simp] theorem completeZero_opposite (s : State) : s.completeZero.opposite = s.opposite := by
  simp [State.completeZero]

@[simp] theorem emit_widths (s : State) (k : EventKind) (c : Nat) : (s.emit k c).widths = s.widths := by
  unfold State.emit
  split <;> rfl

@[simp] theorem emit_bound (s : State) (k : EventKind) (c : Nat) : (s.emit k c).bound = s.bound := by
  unfold State.emit
  split <;> rfl

@[simp] theorem emit_base (s : State) (k : EventKind) (c : Nat) : (s.emit k c).base = s.base := by
  unfold State.emit
  split <;> rfl

@[simp] theorem emit_cap (s : State) (k : EventKind) (c : Nat) : (s.emit k c).cap = s.cap := by
  unfold State.emit
  split <;> rfl

@[simp] theorem emit_wpos (s : State) (k : EventKind) (c : Nat) : (s.emit k c).wpos = s.wpos := by
  unfold State.emit
  split <;> rfl

@[simp] theorem emit_rpos (s : State) (k : EventKind) (c : Nat) : (s.emit k c).rpos = s.rpos := by
  unfold State.emit
  split <;> rfl

@[simp] theorem emit_nen (s : State) (k : EventKind) (c : Nat) : (s.emit k c).nen = s.nen := by
  unfold State.emit
  split <;> rfl

@[simp] theorem emit_nhnd (s : State) (k : EventKind) (c : Nat) : (s.emit k c).nhnd = s.nhnd := by
  unfold State.emit
  split <;> rfl

@[simp] theorem emit_mem (s : State) (k : EventKind) (c : Nat) : (s.emit k c).mem = s.mem := by
  unfold State.emit
  split <;> rfl

@[simp] theorem emit_cur (s : State) (k : EventKind) (c : Nat) : (s.emit k c).cur = s.cur := by
  unfold State.emit
  split <;> rfl

@[simp] theorem emit_sched (s : State) (k : EventKind) (c : Nat) : (s.emit k c).sched = s.sched := by
  unfold State.emit
  split <;> rfl

@[simp] theorem emit_tick (s : State) (k : EventKind) (c : Nat) : (s.emit k c).tick = s.tick := by
  unfold State.emit
  split <;> rfl

@[simp] theorem emit_me (s : State) (k : EventKind) (c : Nat) : (s.emit k c).me = s.me := by
  unfold State.emit
  split <;> rfl

@[simp] theorem emit_opposite (s : State) (k : EventKind) (c : Nat) : (s.emit k c).opposite = s.opposite := by
  unfold State.emit
  split <;> rfl

/-- What an emission appends. -/
theorem emit_evq (s : State) (k : EventKind) (c : Nat) :
    (s.emit k c).evq = s.evq ++ if s.nen then [{ port := s.cur, handle := s.nhnd, kind := k, count := c }] else [] := by
  unfold State.emit
  split <;> simp

/-- Updates of the shared fields do not touch the ports. -/
@[simp] theorem me_updates (s : State) :
    (∀ v, State.me { s with bound := v } = s.me) ∧ (∀ v, State.me { s with wpos := v } = s.me) ∧
    (∀ v, State.me { s with rpos := v } = s.me) ∧ (∀ v w, State.me { s with wpos := v, rpos := w } = s.me) ∧
    (∀ v, State.me { s with mem := v } = s.me) ∧ (∀ v, State.me { s with nen := v } = s.me) ∧
    (∀ v w, State.me { s with nen := v, nhnd := w } = s.me) :=
  ⟨fun _ => rfl, fun _ => rfl, fun _ => rfl, fun _ _ => rfl, fun _ => rfl, fun _ => rfl, fun _ _ => rfl⟩

/-- The same of the opposite port. -/
@[simp] theorem opposite_updates (s : State) :
    (∀ v, State.opposite { s with bound := v } = s.opposite) ∧ (∀ v, State.opposite { s with wpos := v } = s.opposite) ∧
    (∀ v, State.opposite { s with rpos := v } = s.opposite) ∧
    (∀ v w, State.opposite { s with wpos := v, rpos := w } = s.opposite) ∧
    (∀ v, State.opposite { s with mem := v } = s.opposite) ∧ (∀ v, State.opposite { s with nen := v } = s.opposite) ∧
    (∀ v w, State.opposite { s with nen := v, nhnd := w } = s.opposite) :=
  ⟨fun _ => rfl, fun _ => rfl, fun _ => rfl, fun _ _ => rfl, fun _ => rfl, fun _ => rfl, fun _ _ => rfl⟩

@[simp] theorem bindRegion_me (o : NotifyPolicy) (a : Nat) (c : Nat) (s : State) : (bindRegion o a c s).me = s.me := rfl

@[simp] theorem bindRegion_opposite (o : NotifyPolicy) (a : Nat) (c : Nat) (s : State) :
    (bindRegion o a c s).opposite = s.opposite := rfl

@[simp] theorem setHook_me (h : Option Nat) (s : State) : (setHook h s).me = s.me := by cases h <;> rfl

@[simp] theorem setHook_opposite (h : Option Nat) (s : State) : (setHook h s).opposite = s.opposite := by
  cases h <;> rfl

@[simp] theorem setHook_widths (h : Option Nat) (s : State) : (setHook h s).widths = s.widths := by cases h <;> rfl

@[simp] theorem setHook_bound (h : Option Nat) (s : State) : (setHook h s).bound = s.bound := by cases h <;> rfl

@[simp] theorem setHook_base (h : Option Nat) (s : State) : (setHook h s).base = s.base := by cases h <;> rfl

@[simp] theorem setHook_cap (h : Option Nat) (s : State) : (setHook h s).cap = s.cap := by cases h <;> rfl

@[simp] theorem setHook_wpos (h : Option Nat) (s : State) : (setHook h s).wpos = s.wpos := by cases h <;> rfl

@[simp] theorem setHook_rpos (h : Option Nat) (s : State) : (setHook h s).rpos = s.rpos := by cases h <;> rfl

@[simp] theorem setHook_mem (h : Option Nat) (s : State) : (setHook h s).mem = s.mem := by cases h <;> rfl

@[simp] theorem setHook_evq (h : Option Nat) (s : State) : (setHook h s).evq = s.evq := by cases h <;> rfl

@[simp] theorem setHook_cur (h : Option Nat) (s : State) : (setHook h s).cur = s.cur := by cases h <;> rfl

@[simp] theorem setHook_sched (h : Option Nat) (s : State) : (setHook h s).sched = s.sched := by cases h <;> rfl

@[simp] theorem setHook_tick (h : Option Nat) (s : State) : (setHook h s).tick = s.tick := by cases h <;> rfl

@[simp] theorem bindRegion_mem (o : NotifyPolicy) (a : Nat) (c : Nat) (s : State) : (bindRegion o a c s).mem = s.mem := rfl

@[simp] theorem bindRegion_evq (o : NotifyPolicy) (a : Nat) (c : Nat) (s : State) : (bindRegion o a c s).evq = s.evq := rfl

@[simp] theorem bindRegion_cur (o : NotifyPolicy) (a : Nat) (c : Nat) (s : State) : (bindRegion o a c s).cur = s.cur := rfl

@[simp] theorem bindRegion_sched (o : NotifyPolicy) (a : Nat) (c : Nat) (s : State) : (bindRegion o a c s).sched = s.sched := rfl

@[simp] theorem bindRegion_tick (o : NotifyPolicy) (a : Nat) (c : Nat) (s : State) : (bindRegion o a c s).tick = s.tick := rfl

@[simp] theorem bindRegion_nhnd (o : NotifyPolicy) (a : Nat) (c : Nat) (s : State) : (bindRegion o a c s).nhnd = s.nhnd := rfl

/-- A port at `μk` is at micro-step `k`. -/
theorem mu_of_atMu {s : State} {k : Nat} (h : s.atMu k) : s.mu = k := by
  unfold State.atMu at h
  simp [State.mu, h, Phase.mu]

/-- A port at micro-step `k ≠ 0` is at `μk`. -/
theorem atMu_of_mu {s : State} {k : Nat} (h : s.mu = k) (hk : k ≠ 0) : s.atMu k := by
  unfold State.mu at h
  unfold State.atMu
  cases hp : s.me.phase with
  | idle => simp [hp, Phase.mu] at h; omega
  | run j => simp [hp, Phase.mu] at h; rw [h]

/-- The micro-step after `μk`. -/
theorem succ_of_atMu {s : State} {k : Nat} (h : s.atMu k) : s.me.phase.succ = .run (k + 1) := by
  unfold State.atMu at h
  simp [h, Phase.succ]

end Sys2Proof.Machine
end

