-- ==== Sys2Proof/Laws/Ops.lean ====
section
/-! SUPPORT. For each shared operation, everything it can do when it answers a next state. -/

namespace Sys2Proof.Machine

/-- `ReadyCheck` ends the command or latches the binding (R15). -/
theorem readyCheck_cases (s : State) :
    (s.bound = false ∧ readyCheck s = s.completeZero) ∨
    (s.bound = true ∧ readyCheck s = s.goOn { s.me.tmp with b := s.base, cap := s.cap }) := by
  unfold readyCheck
  cases h : s.bound <;> simp

/-- The argument check ends the command or goes on (R115). -/
theorem argCheck_cases (ok : Bool) (s : State) :
    (ok = false ∧ argCheck ok s = s.completeZero) ∨ (ok = true ∧ argCheck ok s = s.goOn s.me.tmp) := by
  cases ok <;> simp [argCheck]

theorem snapshotQuery_next {o : SnapOrder} {f : Temps → Nat} {s t : State} (h : snapshotQuery o f s = .next t) :
    (s.mu = 1 ∧ t = readyCheck s) ∨ (s.mu = 2 ∧ t = s.goOn (firstLoad o s)) ∨
    (s.mu = 3 ∧ t = s.goOn (secondLoad o s)) ∨ (s.mu = 4 ∧ t = s.complete (f s.me.tmp) none) := by
  unfold snapshotQuery at h
  split at h
  · rename_i e; cases h; exact .inl ⟨e, rfl⟩
  · rename_i e; cases h; exact .inr (.inl ⟨e, rfl⟩)
  · rename_i e; cases h; exact .inr (.inr (.inl ⟨e, rfl⟩))
  · rename_i e; cases h; exact .inr (.inr (.inr ⟨e, rfl⟩))
  · cases h

theorem addressQuery_next {load : State → Temps} {ix : Temps → Nat} {s t : State}
    (h : addressQuery load ix s = .next t) :
    (s.mu = 1 ∧ t = readyCheck s) ∨ (s.mu = 2 ∧ t = s.goOn (load s)) ∨
    (s.mu = 3 ∧ t = s.complete 0 (some (s.me.tmp.b + ix s.me.tmp))) := by
  unfold addressQuery at h
  split at h
  · rename_i e; cases h; exact .inl ⟨e, rfl⟩
  · rename_i e; cases h; exact .inr (.inl ⟨e, rfl⟩)
  · rename_i e; cases h; exact .inr (.inr ⟨e, rfl⟩)
  · cases h

theorem indexMove_next {o : SnapOrder} {len : Nat} {avail : Temps → Nat} {store : State → State} {k : EventKind}
    {s t : State} (h : indexMove o len avail store k s = .next t) :
    (s.mu = 1 ∧ t = readyCheck s) ∨ (s.mu = 2 ∧ t = argCheck (countArgOk len) s) ∨
    (s.mu = 3 ∧ t = s.goOn (firstLoad o s)) ∨ (s.mu = 4 ∧ t = planCount len avail (secondLoad o s) s) ∨
    (s.mu = 5 ∧ t = store s) ∨ (s.mu = 6 ∧ t = emitStep k s.me.tmp.n s) ∨
    (s.mu = 7 ∧ t = s.complete s.me.tmp.n none) := by
  unfold indexMove at h
  split at h
  · rename_i e; cases h; exact .inl ⟨e, rfl⟩
  · rename_i e; cases h; exact .inr (.inl ⟨e, rfl⟩)
  · rename_i e; cases h; exact .inr (.inr (.inl ⟨e, rfl⟩))
  · rename_i e; cases h; exact .inr (.inr (.inr (.inl ⟨e, rfl⟩)))
  · rename_i e; cases h; exact .inr (.inr (.inr (.inr (.inl ⟨e, rfl⟩))))
  · rename_i e; cases h; exact .inr (.inr (.inr (.inr (.inr (.inl ⟨e, rfl⟩)))))
  · rename_i e; cases h; exact .inr (.inr (.inr (.inr (.inr (.inr ⟨e, rfl⟩)))))
  · cases h

theorem planCount_cases (len : Nat) (avail : Temps → Nat) (u : Temps) (s : State) :
    (min len (avail u) = 0 ∧ planCount len avail u s = (s.setMe { s.me with tmp := u }).completeZero) ∨
    (min len (avail u) ≠ 0 ∧ planCount len avail u s = s.goOn { u with n := min len (avail u) }) := by
  unfold planCount
  split
  · rename_i h; exact .inl ⟨h, rfl⟩
  · rename_i h; exact .inr ⟨h, rfl⟩

theorem planCopy_next {buf : Option Nat} {n start : Nat} {u : Temps} {s t : State}
    (h : planCopy buf n start u s = .next t) :
    (n = 0 ∧ t = (s.setMe { s.me with tmp := u }).completeZero) ∨
    (n ≠ 0 ∧ ptrAddr buf + n ≤ s.widths.memSize ∧ rangesOverlap (ptrAddr buf) n u.b u.cap = false ∧
      t = s.goOn { u with n := n, c1 := firstSegment start n u.cap, i := 0 }) := by
  unfold planCopy at h
  split at h
  · rename_i e; cases h; exact .inl ⟨e, rfl⟩
  · split at h
    · cases h
    · split at h
      · cases h
      · rename_i e1 e2 e3
        cases h
        exact .inr ⟨e1, by omega, by simpa using e3, rfl⟩

theorem copyRead_next {a : Nat} {s t : State} (h : copyRead a s = .next t) :
    a < s.widths.memSize ∧ t = s.goOn { s.me.tmp with t := s.mem.load a } := by
  unfold copyRead at h
  split at h
  · rename_i e; cases h; exact ⟨e, rfl⟩
  · cases h

theorem copyWrite_next {a : Nat} {s t : State} (h : copyWrite a s = .next t) :
    a < s.widths.memSize ∧
      t = { s with mem := s.mem.store a s.me.tmp.t }.goOn { s.me.tmp with i := s.me.tmp.i + 1 } := by
  unfold copyWrite at h
  split at h
  · rename_i e; cases h; exact ⟨e, rfl⟩
  · cases h

/-- The read stage. -/
theorem copyStage_rd {k i n : Nat} (h : copyStage k i n = .rd) : i < n ∧ k = 5 + 2 * i := by
  unfold copyStage at h
  split_ifs at h
  exact ⟨‹_›, ‹_›⟩

/-- The write stage. -/
theorem copyStage_wr {k i n : Nat} (h : copyStage k i n = .wr) : i < n ∧ k = 6 + 2 * i := by
  unfold copyStage at h
  split_ifs at h
  exact ⟨‹_›, ‹_›⟩

/-- The micro-steps after the loop. -/
theorem copyStage_post {k i n m : Nat} (h : copyStage k i n = .post m) : i = n ∧ k = 5 + 2 * n + m := by
  unfold copyStage at h
  split_ifs at h
  cases h
  omega

theorem copyStage_of_rd {k i n : Nat} (h1 : i < n) (h2 : k = 5 + 2 * i) : copyStage k i n = .rd := by
  simp [copyStage, h1, h2]

theorem copyStage_of_wr {k i n : Nat} (h1 : i < n) (h2 : k = 6 + 2 * i) : copyStage k i n = .wr := by
  simp [copyStage, h1, h2]

theorem copyStage_of_post {k i n m : Nat} (h1 : i = n) (h2 : k = 5 + 2 * n + m) : copyStage k i n = .post m := by
  subst h1 h2
  simp [copyStage]

/-- What the first four micro-steps of WRITE and READ and what their loops can be. -/
theorem writeStep_next {o : SnapOrder} {src : Option Nat} {len : Nat} {s t : State}
    (h : writeStep o src len s = .next t) :
    (s.mu = 1 ∧ t = readyCheck s) ∨ (s.mu = 2 ∧ t = argCheck (transferArgsOk src len) s) ∨
    (s.mu = 3 ∧ t = s.goOn (firstLoad o s)) ∨
    (s.mu = 4 ∧ planCopy src (writeLength len (secondLoad o s)) (secondLoad o s).sw (secondLoad o s) s = .next t) ∨
    (5 ≤ s.mu ∧ writeLoop src s = .next t) := by
  unfold writeStep at h
  split at h
  · cases h
  · rename_i e; cases h; exact .inl ⟨e, rfl⟩
  · rename_i e; cases h; exact .inr (.inl ⟨e, rfl⟩)
  · rename_i e; cases h; exact .inr (.inr (.inl ⟨e, rfl⟩))
  · rename_i e; exact .inr (.inr (.inr (.inl ⟨e, h⟩)))
  · refine .inr (.inr (.inr (.inr ⟨?_, h⟩)))
    by_contra hlt
    have : s.mu = 0 ∨ s.mu = 1 ∨ s.mu = 2 ∨ s.mu = 3 ∨ s.mu = 4 := by omega
    rcases this with e | e | e | e | e <;> contradiction

theorem readStep_next {o : SnapOrder} {dst : Option Nat} {len : Nat} {s t : State}
    (h : readStep o dst len s = .next t) :
    (s.mu = 1 ∧ t = readyCheck s) ∨ (s.mu = 2 ∧ t = argCheck (transferArgsOk dst len) s) ∨
    (s.mu = 3 ∧ t = s.goOn (firstLoad o s)) ∨
    (s.mu = 4 ∧ planCopy dst (readLength len (secondLoad o s)) (secondLoad o s).sr (secondLoad o s) s = .next t) ∨
    (5 ≤ s.mu ∧ readLoop dst s = .next t) := by
  unfold readStep at h
  split at h
  · cases h
  · rename_i e; cases h; exact .inl ⟨e, rfl⟩
  · rename_i e; cases h; exact .inr (.inl ⟨e, rfl⟩)
  · rename_i e; cases h; exact .inr (.inr (.inl ⟨e, rfl⟩))
  · rename_i e; exact .inr (.inr (.inr (.inl ⟨e, h⟩)))
  · refine .inr (.inr (.inr (.inr ⟨?_, h⟩)))
    by_contra hlt
    have : s.mu = 0 ∨ s.mu = 1 ∨ s.mu = 2 ∨ s.mu = 3 ∨ s.mu = 4 := by omega
    rcases this with e | e | e | e | e <;> contradiction

theorem peekStep_next {o : SnapOrder} {dst : Option Nat} {len skip : Nat} {s t : State}
    (h : peekStep o dst len skip s = .next t) :
    (s.mu = 1 ∧ t = readyCheck s) ∨ (s.mu = 2 ∧ t = argCheck (transferArgsOk dst len) s) ∨
    (s.mu = 3 ∧ t = s.goOn (firstLoad o s)) ∨ (s.mu = 4 ∧ planPeek dst len skip (secondLoad o s) s = .next t) ∨
    (5 ≤ s.mu ∧ peekLoop dst s = .next t) := by
  unfold peekStep at h
  split at h
  · cases h
  · rename_i e; cases h; exact .inl ⟨e, rfl⟩
  · rename_i e; cases h; exact .inr (.inl ⟨e, rfl⟩)
  · rename_i e; cases h; exact .inr (.inr (.inl ⟨e, rfl⟩))
  · rename_i e; exact .inr (.inr (.inr (.inl ⟨e, h⟩)))
  · refine .inr (.inr (.inr (.inr ⟨?_, h⟩)))
    by_contra hlt
    have : s.mu = 0 ∨ s.mu = 1 ∨ s.mu = 2 ∨ s.mu = 3 ∨ s.mu = 4 := by omega
    rcases this with e | e | e | e | e <;> contradiction

/-- WRITE's loop by its stages. -/
theorem writeLoop_next {src : Option Nat} {s t : State} (h : writeLoop src s = .next t) :
    (s.copyStage = .rd ∧ copyRead (s.callerAddr src) s = .next t) ∨
    (s.copyStage = .wr ∧ copyWrite (s.regionAddr s.me.tmp.sw) s = .next t) ∨
    (s.copyStage = .post 0 ∧ t = storeWpos s) ∨ (s.copyStage = .post 1 ∧ t = emitStep .write s.me.tmp.n s) ∨
    (s.copyStage = .post 2 ∧ t = s.complete s.me.tmp.n none) := by
  unfold writeLoop at h
  split at h
  · rename_i e; exact .inl ⟨e, h⟩
  · rename_i e; exact .inr (.inl ⟨e, h⟩)
  · rename_i e; cases h; exact .inr (.inr (.inl ⟨e, rfl⟩))
  · rename_i e; cases h; exact .inr (.inr (.inr (.inl ⟨e, rfl⟩)))
  · rename_i e; cases h; exact .inr (.inr (.inr (.inr ⟨e, rfl⟩)))
  · cases h

/-- READ's loop by its stages. -/
theorem readLoop_next {dst : Option Nat} {s t : State} (h : readLoop dst s = .next t) :
    (s.copyStage = .rd ∧ copyRead (s.regionAddr s.me.tmp.sr) s = .next t) ∨
    (s.copyStage = .wr ∧ copyWrite (s.callerAddr dst) s = .next t) ∨
    (s.copyStage = .post 0 ∧ t = storeRpos s) ∨ (s.copyStage = .post 1 ∧ t = emitStep .read s.me.tmp.n s) ∨
    (s.copyStage = .post 2 ∧ t = s.complete s.me.tmp.n none) := by
  unfold readLoop at h
  split at h
  · rename_i e; exact .inl ⟨e, h⟩
  · rename_i e; exact .inr (.inl ⟨e, h⟩)
  · rename_i e; cases h; exact .inr (.inr (.inl ⟨e, rfl⟩))
  · rename_i e; cases h; exact .inr (.inr (.inr (.inl ⟨e, rfl⟩)))
  · rename_i e; cases h; exact .inr (.inr (.inr (.inr ⟨e, rfl⟩)))
  · cases h

/-- PEEK's loop by its stages. -/
theorem peekLoop_next {dst : Option Nat} {s t : State} (h : peekLoop dst s = .next t) :
    (s.copyStage = .rd ∧ copyRead (s.regionAddr s.me.tmp.s0) s = .next t) ∨
    (s.copyStage = .wr ∧ copyWrite (s.callerAddr dst) s = .next t) ∨
    (s.copyStage = .post 0 ∧ t = s.complete s.me.tmp.n none) := by
  unfold peekLoop at h
  split at h
  · rename_i e; exact .inl ⟨e, h⟩
  · rename_i e; exact .inr (.inl ⟨e, h⟩)
  · rename_i e; cases h; exact .inr (.inr ⟨e, rfl⟩)
  · cases h

/-- PEEK's plan: the guard's zero result, or the copy's plan. -/
theorem planPeek_next {dst : Option Nat} {len skip : Nat} {u : Temps} {s t : State}
    (h : planPeek dst len skip u s = .next t) :
    (u.usedSpace ≤ skip ∧ t = (s.setMe { s.me with tmp := u }).completeZero) ∨
    (skip < u.usedSpace ∧
      planCopy dst (peekLength len skip u) (peekStart skip u) { u with s0 := peekStart skip u } s = .next t) := by
  unfold planPeek at h
  split at h
  · rename_i e; cases h; exact .inl ⟨e, rfl⟩
  · rename_i e; exact .inr ⟨by omega, h⟩

theorem execInit_next {r : Option Nat} {cap : Nat} {s t : State} (h : execInit r cap s = .next t) :
    s.mu = 1 ∧ (((r = none ∨ cap = 0) ∧ t = s.completeZero) ∨
      ∃ a, r = some a ∧ cap ≠ 0 ∧ a + cap ≤ s.widths.memSize ∧ otherInFlight s = false ∧
        t = (bindRegion Config.initNotifyPolicy a cap s).complete (boolResult true) none) := by
  unfold execInit at h
  split at h
  · rename_i e
    refine ⟨e, ?_⟩
    unfold initStep at h
    split at h
    · cases h; exact .inl ⟨.inl rfl, rfl⟩
    · split at h
      · rename_i e1; cases h; exact .inl ⟨.inr e1, rfl⟩
      · split at h
        · cases h
        · split at h
          · cases h
          · rename_i a e1 e2 e3
            cases h
            exact .inr ⟨a, rfl, e1, by omega, by simpa using e3, rfl⟩
  · cases h

theorem execIsready_next {s t : State} (h : execIsready s = .next t) :
    s.mu = 1 ∧ t = s.complete (boolResult s.bound) none := by
  unfold execIsready at h
  split at h
  · rename_i e; cases h; exact ⟨e, rfl⟩
  · cases h

theorem execDetach_next {s t : State} (h : execDetach s = .next t) :
    s.mu = 1 ∧ ((s.bound = false ∧ t = s.completeZero) ∨
      (s.bound = true ∧ otherInFlight s = false ∧ t = { s with bound := false }.completeZero)) := by
  unfold execDetach at h
  split at h
  · rename_i e
    refine ⟨e, ?_⟩
    split at h
    · rename_i e1
      unfold detachReady at h
      split at h
      · cases h
      · rename_i e2; cases h; exact .inr ⟨e1, by simpa using e2, rfl⟩
    · rename_i e1; cases h; exact .inl ⟨by simpa using e1, rfl⟩
  · cases h

theorem execSetntfy_next {hd : Option Nat} {s t : State} (h : execSetntfy hd s = .next t) :
    s.mu = 1 ∧ ((s.bound = false ∧ t = s.completeZero) ∨ (s.bound = true ∧ t = (setHook hd s).completeZero)) := by
  unfold execSetntfy at h
  split at h
  · rename_i e
    refine ⟨e, ?_⟩
    cases hb : s.bound <;> simp [hb] at h <;> simp [h]
  · cases h

theorem execReset_next {s t : State} (h : execReset s = .next t) :
    (s.mu = 1 ∧ t = readyCheck s) ∨
    (s.mu = 2 ∧ otherInFlight s = false ∧ t = { s with wpos := 0, rpos := 0 }.goOn s.me.tmp) ∨
    (s.mu = 3 ∧ t = emitStep .reset 0 s) ∨ (s.mu = 4 ∧ t = s.completeZero) := by
  unfold execReset at h
  split at h
  · rename_i e; cases h; exact .inl ⟨e, rfl⟩
  · rename_i e
    unfold zeroIndices at h
    split at h
    · cases h
    · rename_i e2; cases h; exact .inr (.inl ⟨e, by simpa using e2, rfl⟩)
  · rename_i e; cases h; exact .inr (.inr (.inl ⟨e, rfl⟩))
  · rename_i e; cases h; exact .inr (.inr (.inr ⟨e, rfl⟩))
  · cases h

theorem execIllegal_next {s t : State} (h : execIllegal s = .next t) : s.mu = 1 ∧ t = s.completeZero := by
  unfold execIllegal at h
  split at h
  · rename_i e; cases h; exact ⟨e, rfl⟩
  · cases h

end Sys2Proof.Machine
end

