-- ==== Sys2Proof/Laws/Exec.lean ====
section
/-! SUPPORT. Everything one micro-step of any command can do when it answers a next state, said once. -/

namespace Sys2Proof.Machine

/-- A micro-step that touches the stepping port only, by what it does there. -/
inductive PlainStep (s t : State) : Prop where
  /-- the ready check -/
  | ready (h : t = readyCheck s)
  /-- the zero result -/
  | zero (h : t = s.completeZero)
  /-- the zero result, with temporaries written -/
  | zeroWith (u : Temps) (h : t = (s.setMe { s.me with tmp := u }).completeZero)
  /-- the next micro-step, with temporaries written -/
  | go (u : Temps) (h : t = s.goOn u)
  /-- a result -/
  | done (r : Nat) (a : Option Nat) (h : t = s.complete r a)

/-- A plain step changes the stepping port's registers only; not its operands, and its results only at a `Complete`. -/
theorem PlainStep.port_only {s t : State} (d : PlainStep s t) :
    t = s.setMe t.me ∧ sameOperands s.me t.me ∧ (t.me.phase ≠ .idle → sameResults s.me t.me) := by
  cases d with
  | ready h =>
    subst h
    rcases readyCheck_cases s with ⟨_, h⟩ | ⟨_, h⟩ <;> rw [h] <;>
      simp [sameOperands, sameResults, State.completeZero, State.complete, State.goOn]
  | zero h => subst h; simp [sameOperands, State.completeZero, State.complete]
  | zeroWith u h => subst h; simp [sameOperands, State.completeZero, State.complete]
  | go u h => subst h; simp [sameOperands, sameResults, State.goOn]
  | done r a h => subst h; simp [sameOperands, State.complete]

/-- What a plain step leaves alone, field by field. -/
theorem PlainStep.frame {s t : State} (d : PlainStep s t) :
    sameBinding s t ∧ sameHook s t ∧ sameIndices s t ∧ t.mem = s.mem ∧ t.evq = s.evq ∧ sameSurroundings s t := by
  obtain ⟨h, h2, _⟩ := d.port_only
  refine ⟨?_, ?_, ?_, ?_, ?_, ?_⟩
  any_goals (rw [h]; simp [sameBinding, sameHook, sameIndices, sameSurroundings])
  exact h2

theorem argCheck_plain (ok : Bool) (s : State) : PlainStep s (argCheck ok s) := by
  rcases argCheck_cases ok s with ⟨_, h⟩ | ⟨_, h⟩
  · exact .zero h
  · exact .go _ h

theorem planCopy_plain {buf : Option Nat} {n start : Nat} {u : Temps} {s t : State}
    (h : planCopy buf n start u s = .next t) : PlainStep s t := by
  rcases planCopy_next h with ⟨_, h⟩ | ⟨_, _, _, h⟩
  · exact .zeroWith _ h
  · exact .go _ h

theorem snapshotQuery_plain {o : SnapOrder} {f : Temps → Nat} {s t : State} (h : snapshotQuery o f s = .next t) :
    PlainStep s t := by
  rcases snapshotQuery_next h with ⟨_, h⟩ | ⟨_, h⟩ | ⟨_, h⟩ | ⟨_, h⟩
  · exact .ready h
  · exact .go _ h
  · exact .go _ h
  · exact .done _ _ h

theorem addressQuery_plain {load : State → Temps} {ix : Temps → Nat} {s t : State}
    (h : addressQuery load ix s = .next t) : PlainStep s t := by
  rcases addressQuery_next h with ⟨_, h⟩ | ⟨_, h⟩ | ⟨_, h⟩
  · exact .ready h
  · exact .go _ h
  · exact .done _ _ h

/-- A micro-step that is not plain, by what it does to the shared state, and which commands have one. -/
inductive SharedStep (i : Instr) (s t : State) : Prop where
  /-- a `MemWrite` of WRITE, READ or PEEK -/
  | store (a : Nat) (u : Temps) (ha : storeAddr i s = some a)
      (hi : (∃ p len, i = .write p len) ∨ (∃ p len, i = .read p len) ∨ (∃ p len skip, i = .peek p len skip))
      (h : t = { s with mem := s.mem.store a s.me.tmp.t }.goOn u)
  /-- the index store of WRITE or ADVANCE -/
  | wpos (hi : (∃ p len, i = .write p len) ∨ (∃ len, i = .advance len)) (h : t = storeWpos s)
  /-- the index store of READ or SKIP -/
  | rpos (hi : (∃ p len, i = .read p len) ∨ (∃ len, i = .skip len)) (h : t = storeRpos s)
  /-- the emit micro-step of WRITE or ADVANCE -/
  | emitWrite (hi : (∃ p len, i = .write p len) ∨ (∃ len, i = .advance len)) (h : t = emitStep .write s.me.tmp.n s)
  /-- the emit micro-step of READ or SKIP -/
  | emitRead (hi : (∃ p len, i = .read p len) ∨ (∃ len, i = .skip len)) (h : t = emitStep .read s.me.tmp.n s)
  /-- RESET's emit micro-step -/
  | emitReset (hi : i = .reset) (hk : s.mu = 3) (h : t = emitStep .reset 0 s)
  /-- RESET's index stores -/
  | zero (hi : i = .reset) (hk : s.mu = 2) (hq : otherInFlight s = false)
      (h : t = { s with wpos := 0, rpos := 0 }.goOn s.me.tmp)
  /-- a successful INIT -/
  | init (a : Nat) (cap : Nat) (hi : i = .init (some a) cap) (hk : s.mu = 1) (hc : cap ≠ 0)
      (hr : a + cap ≤ s.widths.memSize) (hq : otherInFlight s = false)
      (h : t = (bindRegion Config.initNotifyPolicy a cap s).complete (boolResult true) none)
  /-- DETACH of a ready buffer -/
  | detach (hi : i = .detach) (hb : s.bound = true) (hq : otherInFlight s = false)
      (h : t = { s with bound := false }.completeZero)
  /-- SETNTFY on a ready buffer -/
  | hook (x : Option Nat) (hi : i = .setntfy x) (hb : s.bound = true) (h : t = (setHook x s).completeZero)

/-- Everything one micro-step can do. -/
theorem exec_next {i : Instr} {s t : State} (h : exec i s = .next t) : PlainStep s t ∨ SharedStep i s t := by
  cases i with
  | init r c =>
    obtain ⟨hk, ⟨_, h⟩ | ⟨a, rfl, hc, hr, hq, h⟩⟩ := execInit_next h
    · exact .inl (.zero h)
    · exact .inr (.init a c rfl hk hc hr hq h)
  | isready => exact .inl (.done _ _ (execIsready_next h).2)
  | detach =>
    obtain ⟨_, ⟨_, h⟩ | ⟨hb, hq, h⟩⟩ := execDetach_next h
    · exact .inl (.zero h)
    · exact .inr (.detach rfl hb hq h)
  | setntfy x =>
    obtain ⟨_, ⟨_, h⟩ | ⟨hb, h⟩⟩ := execSetntfy_next h
    · exact .inl (.zero h)
    · exact .inr (.hook x rfl hb h)
  | free => exact .inl (snapshotQuery_plain h)
  | used => exact .inl (snapshotQuery_plain h)
  | lrlen => exact .inl (snapshotQuery_plain h)
  | lwlen => exact .inl (snapshotQuery_plain h)
  | lraddr => exact .inl (addressQuery_plain (load := fun _ => _) h)
  | lwaddr => exact .inl (addressQuery_plain (load := fun _ => _) h)
  | write p len =>
    rcases writeStep_next h with ⟨_, h⟩ | ⟨_, rfl⟩ | ⟨_, h⟩ | ⟨_, h⟩ | ⟨h5, h⟩
    · exact .inl (.ready h)
    · exact .inl (argCheck_plain _ s)
    · exact .inl (.go _ h)
    · exact .inl (planCopy_plain h)
    · rcases writeLoop_next h with ⟨_, h⟩ | ⟨hw, h⟩ | ⟨_, h⟩ | ⟨_, h⟩ | ⟨_, h⟩
      · exact .inl (.go _ (copyRead_next h).2)
      · exact .inr (.store _ _ (by simp [storeAddr, h5, hw]) (.inl ⟨p, len, rfl⟩) (copyWrite_next h).2)
      · exact .inr (.wpos (.inl ⟨p, len, rfl⟩) h)
      · exact .inr (.emitWrite (.inl ⟨p, len, rfl⟩) h)
      · exact .inl (.done _ _ h)
  | read p len =>
    rcases readStep_next h with ⟨_, h⟩ | ⟨_, rfl⟩ | ⟨_, h⟩ | ⟨_, h⟩ | ⟨h5, h⟩
    · exact .inl (.ready h)
    · exact .inl (argCheck_plain _ s)
    · exact .inl (.go _ h)
    · exact .inl (planCopy_plain h)
    · rcases readLoop_next h with ⟨_, h⟩ | ⟨hw, h⟩ | ⟨_, h⟩ | ⟨_, h⟩ | ⟨_, h⟩
      · exact .inl (.go _ (copyRead_next h).2)
      · exact .inr (.store _ _ (by simp [storeAddr, h5, hw]) (.inr (.inl ⟨p, len, rfl⟩)) (copyWrite_next h).2)
      · exact .inr (.rpos (.inl ⟨p, len, rfl⟩) h)
      · exact .inr (.emitRead (.inl ⟨p, len, rfl⟩) h)
      · exact .inl (.done _ _ h)
  | peek p len k =>
    rcases peekStep_next h with ⟨_, h⟩ | ⟨_, rfl⟩ | ⟨_, h⟩ | ⟨_, h⟩ | ⟨h5, h⟩
    · exact .inl (.ready h)
    · exact .inl (argCheck_plain _ s)
    · exact .inl (.go _ h)
    · rcases planPeek_next h with ⟨_, h⟩ | ⟨_, h⟩
      · exact .inl (.zeroWith _ h)
      · exact .inl (planCopy_plain h)
    · rcases peekLoop_next h with ⟨_, h⟩ | ⟨hw, h⟩ | ⟨_, h⟩
      · exact .inl (.go _ (copyRead_next h).2)
      · exact .inr (.store _ _ (by simp [storeAddr, h5, hw]) (.inr (.inr ⟨p, len, k, rfl⟩)) (copyWrite_next h).2)
      · exact .inl (.done _ _ h)
  | skip len =>
    rcases indexMove_next h with ⟨_, h⟩ | ⟨_, rfl⟩ | ⟨_, h⟩ | ⟨_, h⟩ | ⟨_, h⟩ | ⟨_, h⟩ | ⟨_, h⟩
    · exact .inl (.ready h)
    · exact .inl (argCheck_plain _ s)
    · exact .inl (.go _ h)
    · rcases planCount_cases len Temps.usedSpace (secondLoad Config.snapOrder s) s with ⟨_, e⟩ | ⟨_, e⟩
      · exact .inl (.zeroWith _ (h.trans e))
      · exact .inl (.go _ (h.trans e))
    · exact .inr (.rpos (.inr ⟨len, rfl⟩) h)
    · exact .inr (.emitRead (.inr ⟨len, rfl⟩) h)
    · exact .inl (.done _ _ h)
  | advance len =>
    rcases indexMove_next h with ⟨_, h⟩ | ⟨_, rfl⟩ | ⟨_, h⟩ | ⟨_, h⟩ | ⟨_, h⟩ | ⟨_, h⟩ | ⟨_, h⟩
    · exact .inl (.ready h)
    · exact .inl (argCheck_plain _ s)
    · exact .inl (.go _ h)
    · rcases planCount_cases len Temps.freeSpace (secondLoad Config.snapOrder s) s with ⟨_, e⟩ | ⟨_, e⟩
      · exact .inl (.zeroWith _ (h.trans e))
      · exact .inl (.go _ (h.trans e))
    · exact .inr (.wpos (.inr ⟨len, rfl⟩) h)
    · exact .inr (.emitWrite (.inr ⟨len, rfl⟩) h)
    · exact .inl (.done _ _ h)
  | reset =>
    rcases execReset_next h with ⟨_, h⟩ | ⟨hk, hq, h⟩ | ⟨hk, h⟩ | ⟨_, h⟩
    · exact .inl (.ready h)
    · exact .inr (.zero rfl hk hq h)
    · exact .inr (.emitReset rfl hk h)
    · exact .inl (.zero h)

end Sys2Proof.Machine
end

