-- ==== Sys2Proof/Laws/Memory.lean ====
section
/-! SUPPORT. Memory: a read after a write, and the canonical form is kept. -/

namespace Sys2Proof.Machine

theorem byte?_store_same (m : Memory) (x : Nat) (v : Byte) : (Memory.store m x v).byte? x = some v := by
  induction m with
  | nil => simp [Memory.store, Memory.byte?]
  | cons c m ih =>
    obtain ⟨a, u⟩ := c
    unfold Memory.store
    split
    · simp [Memory.byte?]
    · split
      · simp [Memory.byte?]
      · rename_i _ h
        rw [Memory.byte?, if_neg (fun e => h e.symm)]
        exact ih

theorem byte?_store_other (m : Memory) {x y : Nat} (v : Byte) (h : y ≠ x) :
    (Memory.store m x v).byte? y = m.byte? y := by
  induction m with
  | nil => simp [Memory.store, Memory.byte?, Ne.symm h]
  | cons c m ih =>
    obtain ⟨a, u⟩ := c
    unfold Memory.store
    split
    · simp [Memory.byte?, Ne.symm h]
    · split
      · rename_i _ e
        subst e
        simp [Memory.byte?, Ne.symm h]
      · simp only [Memory.byte?, ih]

@[simp] theorem load_store_same (m : Memory) (x : Nat) (v : Byte) : (Memory.store m x v).load x = v := by
  simp [Memory.load, byte?_store_same]

theorem load_store_other (m : Memory) {x y : Nat} (v : Byte) (h : y ≠ x) : (Memory.store m x v).load y = m.load y := by
  simp [Memory.load, byte?_store_other m v h]

/-- Both cases at once. -/
theorem load_store (m : Memory) (x y : Nat) (v : Byte) :
    (Memory.store m x v).load y = if y = x then v else m.load y := by
  split
  · rename_i h
    subst h
    exact load_store_same m y v
  · rename_i h
    exact load_store_other m v h

theorem wfFrom_store (m : Memory) (lo x : Nat) (v : Byte) (hm : m.wfFrom lo = true) (hlo : lo ≤ x) :
    (Memory.store m x v).wfFrom lo = true := by
  induction m generalizing lo with
  | nil => simpa [Memory.store, Memory.wfFrom] using hlo
  | cons c m ih =>
    obtain ⟨a, u⟩ := c
    simp only [Memory.wfFrom, Bool.and_eq_true, decide_eq_true_eq] at hm
    unfold Memory.store
    split
    · rename_i h
      simp only [Memory.wfFrom, Bool.and_eq_true, decide_eq_true_eq]
      exact ⟨hlo, by omega, hm.2⟩
    · split
      · rename_i _ e
        subst e
        simp only [Memory.wfFrom, Bool.and_eq_true, decide_eq_true_eq]
        exact ⟨hlo, hm.2⟩
      · rename_i h1 h2
        simp only [Memory.wfFrom, Bool.and_eq_true, decide_eq_true_eq]
        exact ⟨hm.1, ih (a + 1) hm.2 (by omega)⟩

/-- Every write keeps the canonical form. -/
theorem wf_store (m : Memory) (x : Nat) (v : Byte) (hm : m.wf = true) : (Memory.store m x v).wf = true :=
  wfFrom_store m 0 x v hm (Nat.zero_le x)

/-- A write inside the address space lists no address outside it. -/
theorem below_store {size : Nat} (m : Memory) (x : Nat) (v : Byte) (hm : m.below size = true) (hx : x < size) :
    (Memory.store m x v).below size = true := by
  induction m with
  | nil => simpa [Memory.store, Memory.below] using hx
  | cons c m ih =>
    obtain ⟨a, u⟩ := c
    simp only [Memory.below, List.all_cons, Bool.and_eq_true, decide_eq_true_eq] at hm ih ⊢
    unfold Memory.store
    split
    · simp only [List.all_cons, Bool.and_eq_true, decide_eq_true_eq]
      exact ⟨hx, hm⟩
    · split
      · simp only [List.all_cons, Bool.and_eq_true, decide_eq_true_eq]
        exact ⟨hx, hm.2⟩
      · simp only [List.all_cons, Bool.and_eq_true, decide_eq_true_eq]
        exact ⟨hm.1, ih hm.2⟩

/-- An outside write keeps it. -/
theorem wf_outsideWrite (a : Nat) (v : Byte) (s : State) (hm : s.mem.wf = true) : (outsideWrite a v s).mem.wf = true :=
  wf_store s.mem _ v hm

/-- An outside write lands at an address that exists. -/
theorem below_outsideWrite (a : Nat) (v : Byte) (s : State) (hm : s.mem.below s.widths.memSize = true) :
    (outsideWrite a v s).mem.below s.widths.memSize = true :=
  below_store s.mem _ v hm (Nat.mod_lt _ (Nat.two_pow_pos _))

/-- The hardware reset keeps it. -/
theorem wf_hwReset (s : State) (hm : s.mem.wf = true) : (hwReset s).mem.wf = true := hm

/-- Memory after reset has it. -/
theorem wf_reset : State.reset.mem.wf = true := rfl

end Sys2Proof.Machine
end

