-- ==== Sys2Proof/Laws/PerInstr.lean ====
section
/-! SUPPORT. Statements for all commands, one lemma for each constructor. EncodesItsRow: a command's word, with its pointer absent or present, is selected by its own row of the table (R82). -/

namespace Sys2Proof.Laws.EncodesItsRow

open Sys2Proof

/-- The row the table gives a command's mnemonic selects its encoded word. -/
def Statement (i : Instr) : Prop :=
  ∀ r ∈ opcodeTable, r.mnemonic = i.mnemonic → r.selects (encode i).cw = true

/-- The statement from the command's word and name. -/
theorem of_word {i : Instr} (w : BitVec 32) (m : String) (hw : (encode i).cw = w) (hm : i.mnemonic = m)
    (h : ∀ r ∈ opcodeTable, r.mnemonic = m → r.selects w = true) : Statement i := by
  subst hw hm
  exact h

theorem init (region : Option Nat) (cap : Nat) : Statement (.init region cap) := by
  cases region
  · exact of_word 0x00000001 "INIT" rfl rfl (by decide)
  · exact of_word 0x00000101 "INIT" rfl rfl (by decide)

theorem isready : Statement .isready :=
  of_word 0x00000002 "ISREADY" rfl rfl (by decide)

theorem detach : Statement .detach :=
  of_word 0x00000003 "DETACH" rfl rfl (by decide)

theorem setntfy (handle : Option Nat) : Statement (.setntfy handle) := by
  cases handle
  · exact of_word 0x00000004 "SETNTFY" rfl rfl (by decide)
  · exact of_word 0x00000104 "SETNTFY" rfl rfl (by decide)

theorem free : Statement .free :=
  of_word 0x00000005 "FREE" rfl rfl (by decide)

theorem used : Statement .used :=
  of_word 0x00000006 "USED" rfl rfl (by decide)

theorem write (src : Option Nat) (len : Nat) : Statement (.write src len) := by
  cases src
  · exact of_word 0x00000007 "WRITE" rfl rfl (by decide)
  · exact of_word 0x00000107 "WRITE" rfl rfl (by decide)

theorem read (dst : Option Nat) (len : Nat) : Statement (.read dst len) := by
  cases dst
  · exact of_word 0x00000008 "READ" rfl rfl (by decide)
  · exact of_word 0x00000108 "READ" rfl rfl (by decide)

theorem peek (dst : Option Nat) (len skip : Nat) : Statement (.peek dst len skip) := by
  cases dst
  · exact of_word 0x00000009 "PEEK" rfl rfl (by decide)
  · exact of_word 0x00000109 "PEEK" rfl rfl (by decide)

theorem skip (len : Nat) : Statement (.skip len) :=
  of_word 0x0000000A "SKIP" rfl rfl (by decide)

theorem advance (len : Nat) : Statement (.advance len) :=
  of_word 0x0000000B "ADVANCE" rfl rfl (by decide)

theorem lraddr : Statement .lraddr :=
  of_word 0x0000000C "LRADDR" rfl rfl (by decide)

theorem lrlen : Statement .lrlen :=
  of_word 0x0000000D "LRLEN" rfl rfl (by decide)

theorem lwaddr : Statement .lwaddr :=
  of_word 0x0000000E "LWADDR" rfl rfl (by decide)

theorem lwlen : Statement .lwlen :=
  of_word 0x0000000F "LWLEN" rfl rfl (by decide)

theorem reset : Statement .reset :=
  of_word 0x00000010 "RESET" rfl rfl (by decide)

end Sys2Proof.Laws.EncodesItsRow
end

