-- ==== Sys2Proof/Laws/Step.lean ====
section
/-! SUPPORT. What one turn can do, and runs of one command in parts. -/

namespace Sys2Proof.Machine

@[simp] theorem tookTurn_port (s : State) (p : Port) : s.tookTurn.port p = s.port p := by cases p <;> rfl

/-- A turn of a port that has a command in flight. -/
theorem microStep_running {p : Port} {s : State} {k : Nat} {i : Instr} (hp : (s.port p).phase = .run k)
    (hd : decode (s.port p).packet = .ok i) : microStep p s = exec i { s with cur := p } := by
  simp [microStep, hp, hd]

/-- A turn of a port with an illegal word. -/
theorem microStep_illegal {p : Port} {s : State} {k : Nat} {e : Illegal} (hp : (s.port p).phase = .run k)
    (hd : decode (s.port p).packet = .error e) : microStep p s = execIllegal { s with cur := p } := by
  simp [microStep, hp, hd]

/-- A turn of an idle port. -/
theorem microStep_idle {p : Port} {s : State} (hp : (s.port p).phase = .idle) : microStep p s = .next s := by
  simp [microStep, hp]

/-- Everything a port's turn can be. -/
theorem microStep_cases (p : Port) (s : State) :
    ((s.port p).phase = .idle ∧ microStep p s = .next s) ∨
    (∃ k i, (s.port p).phase = .run k ∧ decode (s.port p).packet = .ok i ∧ microStep p s = exec i { s with cur := p }) ∨
    (∃ k e, (s.port p).phase = .run k ∧ decode (s.port p).packet = .error e ∧
      microStep p s = execIllegal { s with cur := p }) := by
  cases hp : (s.port p).phase with
  | idle => exact .inl ⟨rfl, microStep_idle hp⟩
  | run k =>
    cases hd : decode (s.port p).packet with
    | ok i => exact .inr (.inl ⟨k, i, rfl, rfl, microStep_running hp hd⟩)
    | error e => exact .inr (.inr ⟨k, e, rfl, rfl, microStep_illegal hp hd⟩)

/-- Everything a step can answer. -/
theorem step_next {s t : State} (h : step s = .next t) :
    (∃ p q, s.turn = .issue p q ∧ t = issue p q s.tookTurn) ∨
    (∃ p, s.turn = .run p ∧ microStep p s.tookTurn = .next t) ∨
    (∃ a v, s.turn = .outsideWrite a v ∧ t = outsideWrite a v s.tookTurn) ∨
    (∃ a, s.turn = .outsideRead a ∧ t = s.tookTurn) ∨
    (s.turn = .hwReset ∧ t = hwReset s.tookTurn) := by
  unfold step takeTurn at h
  cases ht : s.turn with
  | issue p q => simp only [ht] at h; cases h; exact .inl ⟨p, q, rfl, rfl⟩
  | run p => simp only [ht] at h; exact .inr (.inl ⟨p, rfl, h⟩)
  | outsideWrite a v => simp only [ht] at h; cases h; exact .inr (.inr (.inl ⟨a, v, rfl, rfl⟩))
  | outsideRead a => simp only [ht] at h; cases h; exact .inr (.inr (.inr (.inl ⟨a, rfl, rfl⟩)))
  | hwReset => simp only [ht] at h; cases h; exact .inr (.inr (.inr (.inr ⟨rfl, rfl⟩)))

/-- Issue on an idle port latches, on a busy port does nothing. -/
theorem issue_cases (p : Port) (q : Packet) (s : State) :
    ((s.port p).phase = .idle ∧ issue p q s = s.setPort p ((s.port p).latch (q.onWires s.widths))) ∨
    ((s.port p).phase ≠ .idle ∧ issue p q s = s) := by
  unfold issue
  split
  · rename_i h; exact .inl ⟨h, rfl⟩
  · rename_i k h; exact .inr ⟨by simp [h], rfl⟩

/-- A latched packet fits its port's registers. -/
theorem latch_onWires_inWidth {ws : Widths} {x : PortRegs} (h : x.inWidth ws) (q : Packet) :
    (x.latch (q.onWires ws)).inWidth ws := by
  obtain ⟨-, -, -, hrest⟩ := h
  exact ⟨Nat.mod_lt _ (memSize_pos ws), Nat.mod_lt _ (wordSize_pos ws), Nat.mod_lt _ (wordSize_pos ws), hrest⟩

/-- A port right after reset fits its widths. -/
theorem reset_inWidth (ws : Widths) : PortRegs.reset.inWidth ws := by
  simp [PortRegs.inWidth, PortRegs.reset, Temps.reset, memSize_pos, wordSize_pos]

/-- A run begins with one micro-step. -/
theorem execs_succ {i : Instr} {k : Nat} {s t : State} (h : exec i s = .next t) : execs i (k + 1) s = execs i k t := by
  simp [execs, h]

/-- A run in two parts. -/
theorem execs_add {i : Instr} {j k : Nat} {s t : State} (h : execs i j s = .next t) :
    execs i (j + k) s = execs i k t := by
  induction j generalizing s with
  | zero => simp only [execs, Host.Outcome.next.injEq] at h; simp [h]
  | succ j ih =>
    rw [Nat.add_right_comm]
    cases hx : exec i s with
    | next u => rw [execs_succ hx] at h ⊢; exact ih h
    | fault r => simp [execs, hx] at h
    | refused r => simp [execs, hx] at h

end Sys2Proof.Machine
end

