-- ==== Sys2Proof/Tests/Slice0.lean ====
section
/-! SUPPORT. Tests whose expected results are the spec's own figures (spec/95_test_vectors.md, 30_encoding.md R90, R92), the WellFormed smoke tests, and a witness for the hypotheses of every statement. -/

namespace Sys2Proof.Tests

open Sys2Proof Sys2Proof.Machine

/-! ### Helpers -/

/-- The short form `N=n (w, r)` of spec/95: ready, `BASE = 0x1000`, hook installed with handle `0x0800`. -/
def ready (n w r : Nat) : State :=
  { State.reset with
    bound := true, base := 0x1000, cap := n, wpos := w, rpos := r, nen := true, nhnd := 0x800 }

/-- Port `P` is the stepping port and is at `μk` with these temporaries. -/
def atP (k : Nat) (t : Temps) (s : State) : State := { s with cur := .P, portP := { s.portP with phase := .run k, tmp := t } }

/-- Port `C` is the stepping port and is at `μk` with these temporaries. -/
def atC (k : Nat) (t : Temps) (s : State) : State := { s with cur := .C, portC := { s.portC with phase := .run k, tmp := t } }

/-- Temporaries past the snapshot: the binding at `0x1000` and the loaded indices. -/
def snap (n w r : Nat) : Temps := { Temps.reset with b := 0x1000, cap := n, sw := w, sr := r }

/-- The answer is a next state of which `p` holds. -/
def nextIs (r : Result) (p : State → Bool) : Bool :=
  match r with
  | .next t => p t
  | .fault _ => false
  | .refused _ => false

/-- The stepping port is idle with this result. -/
def done (t : State) (r0 : Nat) (r1 : Nat) (av : Bool) : Bool :=
  t.me.phase == .idle && t.me.r0 == r0 && t.me.r1 == r1 && t.me.av == av

/-- `(BOUND, BASE, CAP, WPOS, RPOS, NEN, NHND)`. -/
def regs (t : State) : Bool × Nat × Nat × Nat × Nat × Bool × Nat :=
  (t.bound, t.base, t.cap, t.wpos, t.rpos, t.nen, t.nhnd)

/-! ### WellFormed -/

theorem test_wf_init_wraps : Instr.wellFormed .default (.init (some 0xFFFFFFFD) 4) = false := by decide
theorem test_wf_init_fits : Instr.wellFormed .default (.init (some 0xFFFFFFFC) 4) = true := by decide
theorem test_wf_write_wraps : Instr.wellFormed .default (.write (some 0xFFFFFFFF) 2) = false := by decide
theorem test_wf_read_wraps : Instr.wellFormed .default (.read (some 1) 0xFFFFFFFF) = true ∧
    Instr.wellFormed .default (.read (some 2) 0xFFFFFFFF) = false := by decide
theorem test_wf_peek_wraps : Instr.wellFormed .default (.peek (some 0x80000001) 0x80000000 0) = false := by decide
theorem test_wf_operand_too_wide : Instr.wellFormed .default (.skip 0x100000000) = false ∧
    Instr.wellFormed .default (.setntfy (some 0x100000000)) = false ∧
    Instr.wellFormed ⟨4, 8⟩ (.advance 15) = true ∧ Instr.wellFormed ⟨4, 8⟩ (.advance 16) = false ∧
    Instr.wellFormed ⟨4, 8⟩ (.write (some 0xFF) 2) = false := by decide
theorem test_wf_absent_pointer : Instr.wellFormed .default (.write none 0xFFFFFFFF) = true := by decide

/-! ### Decoding (R81, R82, R85, R90, spec/95 2.10) -/

theorem test_decode_init : decode ⟨0b1_00000001, 0x1000, 4, 0⟩ = .ok (.init (some 0x1000) 4) ∧
    decode ⟨0b0_00000001, 0x1000, 4, 0⟩ = .ok (.init none 4) := by decide
theorem test_decode_isready : decode ⟨0b0_00000010, 0, 0, 0⟩ = .ok .isready := by decide
theorem test_decode_detach : decode ⟨0b0_00000011, 0, 0, 0⟩ = .ok .detach := by decide
theorem test_decode_setntfy : decode ⟨0b1_00000100, 0, 0, 0⟩ = .ok (.setntfy (some 0)) ∧
    decode ⟨0b0_00000100, 0x800, 0, 0⟩ = .ok (.setntfy none) := by decide
theorem test_decode_free : decode ⟨0b0_00000101, 0, 0, 0⟩ = .ok .free := by decide
theorem test_decode_used : decode ⟨0b0_00000110, 0, 0, 0⟩ = .ok .used := by decide
theorem test_decode_write : decode ⟨0b1_00000111, 0x2000, 2, 9⟩ = .ok (.write (some 0x2000) 2) ∧
    decode ⟨0b0_00000111, 0x2000, 2, 9⟩ = .ok (.write none 2) := by decide
theorem test_decode_read : decode ⟨0b1_00001000, 0x3000, 7, 9⟩ = .ok (.read (some 0x3000) 7) ∧
    decode ⟨0b0_00001000, 0x3000, 7, 9⟩ = .ok (.read none 7) := by decide
theorem test_decode_peek : decode ⟨0b1_00001001, 0x3000, 4, 1⟩ = .ok (.peek (some 0x3000) 4 1) ∧
    decode ⟨0b0_00001001, 0x3000, 4, 1⟩ = .ok (.peek none 4 1) := by decide
theorem test_decode_skip : decode ⟨0b0_00001010, 7, 3, 9⟩ = .ok (.skip 3) := by decide
theorem test_decode_advance : decode ⟨0b0_00001011, 7, 5, 9⟩ = .ok (.advance 5) := by decide
theorem test_decode_lraddr : decode ⟨0b0_00001100, 0, 0, 0⟩ = .ok .lraddr := by decide
theorem test_decode_lrlen : decode ⟨0b0_00001101, 0, 0, 0⟩ = .ok .lrlen := by decide
theorem test_decode_lwaddr : decode ⟨0b0_00001110, 0, 0, 0⟩ = .ok .lwaddr := by decide
theorem test_decode_lwlen : decode ⟨0b0_00001111, 0, 0, 0⟩ = .ok .lwlen := by decide
theorem test_decode_reset : decode ⟨0b0_00010000, 0, 0, 0⟩ = .ok .reset := by decide

theorem test_decode_illegal :
    decode ⟨0x00000110, 0, 0, 0⟩ = .error .pointerNotAllowed ∧ decode ⟨0x000000FF, 0, 0, 0⟩ = .error .unknownOpcode ∧
      decode ⟨0x80000006, 0, 0, 0⟩ = .error .reservedBits ∧ decode ⟨0x00000300, 0, 0, 0⟩ = .error .reservedBits := by
  decide

theorem test_decodeTableWord :
    decodeTableWord 32 0x00000109 = some (.peek (some 0) 0 0) ∧ decodeTableWord 32 0 = none ∧
      decodeTableWord 8 0x106 = some .used ∧
      decodeTableWord 128 0x00000001_00000004_00003000_00000109 = some (.peek (some 0x3000) 4 1) := by decide

/-- R88's and R90's packets, written by the encoder. -/
theorem test_encode :
    encode (.init none 4) = ⟨0x00000001, 0, 4, 0⟩ ∧ encode (.write (some 0x2000) 2) = ⟨0x00000107, 0x2000, 2, 0⟩ ∧
      encode (.peek (some 0x3000) 4 1) = ⟨0x00000109, 0x3000, 4, 1⟩ ∧ encode (.skip 3) = ⟨0x0000000A, 0, 3, 0⟩ := by
  decide

/-- R92's numbers. -/
theorem test_encodeEvent :
    encodeEvent ⟨.P, 0x800, .write, 2⟩ = (0, 0x800, 0, 2) ∧ encodeEvent ⟨.C, 0x900, .read, 5⟩ = (1, 0x900, 1, 5) ∧
      encodeEvent ⟨.P, 0x800, .reset, 0⟩ = (0, 0x800, 2, 0) := by decide

/-! ### The arithmetic (spec/95 2.1, 2.7) -/

theorem test_used_free_vectors :
    [(8, 0, 0), (8, 6, 4), (8, 3, 4), (8, 7, 0), (1, 0, 0), (4, 1, 2), (8, 0, 7), (4294967295, 0, 1)].map
      (fun (n, w, r) => (usedSpace w r n, freeSpace w r n)) =
    [(0, 7), (2, 5), (7, 0), (7, 0), (0, 0), (3, 0), (1, 6), (4294967294, 0)] := by decide

theorem test_adv_vectors :
    adv 6 2 8 = 0 ∧ adv 6 5 8 = 3 ∧ adv 3 2 4 = 1 ∧ adv 0 0 8 = 0 ∧ adv 7 7 8 = 6 ∧
      adv 4294967294 4294967294 4294967295 = 4294967293 := by decide

theorem test_linear_vectors :
    [(8, 0, 0), (8, 6, 0), (8, 7, 0), (8, 6, 1), (8, 0, 1), (8, 7, 7), (1, 0, 0), (8, 3, 4), (8, 0, 4), (2, 1, 1)].map
      (fun (n, w, r) => (linRead w r n, linWrite w r n)) =
    [(0, 7), (6, 1), (7, 0), (5, 2), (7, 0), (0, 1), (0, 0), (4, 0), (4, 3), (0, 1)] := by decide

/-! ### One micro-step of each command -/

/-- V-I5: rebinding, under either policy. -/
theorem test_init_rebinds (o : NotifyPolicy) :
    nextIs (initStep o (some 0x1800) 4 (atP 1 Temps.reset (ready 8 3 4)))
      (fun t => done t 1 0 false && regs t == (true, 0x1800, 4, 0, 0, decide (o = .keep), 0x800)) = true := by
  cases o <;> decide

/-- V-I3, V-I4: a failed INIT. -/
theorem test_init_zero_capacity (o : NotifyPolicy) :
    nextIs (initStep o (some 0x1000) 0 (atP 1 Temps.reset (ready 8 3 4)))
      (fun t => done t 0 0 false && regs t == (true, 0x1000, 8, 3, 4, true, 0x800)) = true := by
  cases o <;> decide

/-- V-I7. -/
theorem test_isready :
    nextIs (exec .isready (atC 1 Temps.reset State.reset)) (fun t => done t 0 0 false) = true ∧
    nextIs (exec .isready (atC 1 Temps.reset (ready 8 0 0))) (fun t => done t 1 0 false) = true := by decide

/-- V-I8: only `BOUND` changes. -/
theorem test_detach :
    nextIs (exec .detach (atP 1 Temps.reset (ready 8 3 1)))
      (fun t => done t 0 0 false && regs t == (false, 0x1000, 8, 3, 1, true, 0x800)) = true := by decide

/-- V-I11, V-I12: handle 0 is a handle; an absent one disables the hook and keeps `NHND`. -/
theorem test_setntfy :
    nextIs (exec (.setntfy (some 0)) (atC 1 Temps.reset (ready 8 0 0))) (fun t => t.nen && t.nhnd == 0) = true ∧
    nextIs (exec (.setntfy none) (atP 1 Temps.reset (ready 8 0 0))) (fun t => !t.nen && t.nhnd == 0x800) = true := by
  decide

/-- V-I13: a no-op when not ready. -/
theorem test_setntfy_not_ready :
    nextIs (exec (.setntfy (some 0x800)) (atP 1 Temps.reset State.reset)) (fun t => !t.nen && t.nhnd == 0) = true := by
  decide

/-- V-A3, V-A14. -/
theorem test_used :
    nextIs (exec .used (atC 4 (snap 8 3 4) (ready 8 0 0))) (fun t => done t 7 0 false) = true ∧
    nextIs (exec .used (atC 1 (snap 8 3 4) State.reset)) (fun t => done t 0 0 false) = true := by decide

/-- V-A2; the two loads of a snapshot, in either order. -/
theorem test_free :
    nextIs (exec .free (atP 4 (snap 8 6 4) (ready 8 0 0))) (fun t => done t 5 0 false) = true := by decide
theorem test_snapshot_loads (o : SnapOrder) :
    nextIs (snapshotQuery o Temps.freeSpace (atP 2 (snap 8 7 7) (ready 8 6 4)))
      (fun t => t.me.phase == .run 3 && t.me.tmp == (match o with | .wFirst => snap 8 6 7 | .rFirst => snap 8 7 4))
      = true := by
  cases o <;> decide

/-- V-W6: the plan of a wrapping WRITE of 2 bytes: `n = 2`, `c1 = 1`. -/
theorem test_write_plan (o : SnapOrder) :
    nextIs (writeStep o (some 0x2000) 2 (atP 4 (snap 4 3 2) (ready 4 3 2)))
      (fun t => t.me.phase == .run 5 && t.me.tmp == { snap 4 3 2 with n := 2, c1 := 1, i := 0 }) = true := by
  cases o <;> decide

/-- V-W6: its second byte goes to index 0. -/
theorem test_write_wraps :
    nextIs (exec (.write (some 0x2000) 2) (atP 8 { snap 4 3 2 with n := 2, c1 := 1, i := 1, t := 0x31 } (ready 4 3 2)))
      (fun t => t.mem == [(0x1000, 0x31)] && t.me.phase == .run 9 && t.me.tmp.i == 2) = true := by decide

/-- V-R9: the first byte past the physical end is read from index 0. -/
theorem test_read_wraps :
    nextIs (exec (.read (some 0x3000) 5) (atC 13 { snap 8 3 4 with n := 5, c1 := 4, i := 4 }
        { ready 8 3 4 with mem := [(0x1000, 0x69), (0x1004, 0x65)] }))
      (fun t => t.me.tmp.t == 0x69 && t.me.phase == .run 14) = true := by decide

/-- V-R5: landing exactly on `N` stores 0. -/
theorem test_read_lands_on_N :
    nextIs (exec (.read (some 0x3000) 4) (atC 13 { snap 8 3 4 with n := 4, c1 := 4, i := 4 } (ready 8 3 4)))
      (fun t => t.rpos == 0 && t.wpos == 3 && t.me.phase == .run 14 && t.evq == []) = true := by decide

/-- V-P1: `n = 4`, `s0 = 6`, `c1 = 2`. -/
theorem test_peek_plan (o : SnapOrder) :
    nextIs (peekStep o (some 0x3000) 4 2 (atC 4 (snap 8 3 4) (ready 8 3 4)))
      (fun t => t.me.phase == .run 5 && t.me.tmp == { snap 8 3 4 with n := 4, c1 := 2, i := 0, s0 := 6 }) = true := by
  cases o <;> decide

/-- V-P2, V-P6: nothing past the skip. -/
theorem test_peek_nothing (o : SnapOrder) :
    nextIs (peekStep o (some 0x3000) 4 7 (atC 4 (snap 8 3 4) (ready 8 3 4))) (fun t => done t 0 0 false) = true ∧
    nextIs (peekStep o (some 0x3000) 4 0xFFFFFFFF (atC 4 (snap 8 3 4) (ready 8 3 4))) (fun t => done t 0 0 false)
      = true := by
  cases o <;> decide

/-- V-S2: the clamp. -/
theorem test_skip_clamps (o : SnapOrder) :
    nextIs (indexMove o 100 Temps.usedSpace storeRpos .read (atC 4 (snap 8 3 1) (ready 8 3 1)))
      (fun t => t.me.phase == .run 5 && t.me.tmp.n == 2) = true := by
  cases o <;> decide

/-- V-S1: the index store wraps. -/
theorem test_skip_wraps :
    nextIs (exec (.skip 5) (atC 5 { snap 8 3 4 with n := 5 } (ready 8 3 4))) (fun t => t.rpos == 1 && t.wpos == 3)
      = true := by decide

/-- V-V1: the index store and the event. -/
theorem test_advance :
    nextIs (exec (.advance 2) (atP 5 { snap 8 6 4 with n := 2 } (ready 8 6 4))) (fun t => t.wpos == 0 && t.rpos == 4)
      = true ∧
    nextIs (exec (.advance 2) (atP 6 { snap 8 6 4 with n := 2 } (ready 8 0 4)))
      (fun t => t.evq == [⟨.P, 0x800, .write, 2⟩]) = true := by decide

/-- V-V3: full. -/
theorem test_advance_full (o : SnapOrder) :
    nextIs (indexMove o 1 Temps.freeSpace storeWpos .write (atP 4 (snap 8 3 4) (ready 8 3 4)))
      (fun t => done t 0 0 false && t.wpos == 3 && t.evq == []) = true := by
  cases o <;> decide

/-- R172's example, ready and not ready. -/
theorem test_lraddr :
    nextIs (exec .lraddr (atC 3 (snap 8 3 4) (ready 8 3 4))) (fun t => done t 0 0x1004 true) = true ∧
    nextIs (exec .lraddr (atC 1 (snap 8 3 4) State.reset)) (fun t => done t 0 0 false) = true := by decide

/-- V-L11, V-L2. -/
theorem test_lrlen :
    nextIs (exec .lrlen (atC 4 (snap 8 3 4) (ready 8 3 4))) (fun t => done t 4 0 false) = true ∧
    nextIs (exec .lrlen (atC 4 (snap 8 3 0) (ready 8 3 0))) (fun t => done t 3 0 false) = true := by decide

/-- R174's example; the load. -/
theorem test_lwaddr :
    nextIs (exec .lwaddr (atP 3 (snap 8 6 4) (ready 8 6 4))) (fun t => done t 0 0x1006 true) = true ∧
    nextIs (exec .lwaddr (atP 2 (snap 8 7 7) (ready 8 6 4))) (fun t => t.me.tmp == snap 8 6 7) = true := by decide

/-- R175's example: the sentinel at read index 0, and the third case. -/
theorem test_lwlen :
    nextIs (exec .lwlen (atP 4 (snap 8 6 0) (ready 8 6 0))) (fun t => done t 1 0 false) = true ∧
    nextIs (exec .lwlen (atP 4 (snap 8 0 4) (ready 8 0 4))) (fun t => done t 3 0 false) = true := by decide

/-- V-T1: both indices, then the event. -/
theorem test_reset :
    nextIs (exec .reset (atP 2 (snap 8 0 0) (ready 8 3 4))) (fun t => regs t == (true, 0x1000, 8, 0, 0, true, 0x800))
      = true ∧
    nextIs (exec .reset (atP 3 (snap 8 0 0) (ready 8 0 0))) (fun t => t.evq == [⟨.P, 0x800, .reset, 0⟩]) = true := by
  decide

/-- V-T3: no hook, no event; either port. -/
theorem test_reset_no_hook :
    nextIs (exec .reset (atC 3 (snap 8 0 0) { ready 8 0 0 with nen := false })) (fun t => t.evq == []) = true := by
  decide

/-- V-T5: an illegal through the whole step, placed as the host places it. -/
theorem test_illegal_word_steps :
    nextIs (step ((ready 8 3 4).withFetchWord 32 0x110)) (fun t => done t 0 0 false && t.rpos == 4) = true := by decide

/-- A placed runs as the first step after reset. -/
theorem test_placed_word_steps :
    nextIs (step (State.reset.withFetchWord 32 0x002)) (fun t => done t 0 0 false && t.sched == []) = true := by decide

/-- V-W10 through the step: a WRITE that is not ready. -/
theorem test_placed_write_not_ready :
    nextIs (step (State.reset.withFetchWord 32 0x107)) (fun t => done t 0 0 false && t.mem == []) = true := by decide

/-! ### Other widths (R7): `W = 4`, `AW = 8` -/

/-- `P` at `μ1` of a machine of these widths. -/
def narrow : State := atP 1 Temps.reset (State.resetAt ⟨4, 8⟩)

/-- R51 at `AW = 8`: the last region that fits, and the first that wraps. -/
theorem test_init_narrow (o : NotifyPolicy) :
    nextIs (initStep o (some 0xF8) 8 narrow) (fun t => done t 1 0 false && regs t == (true, 0xF8, 8, 0, 0, false, 0)) = true ∧
      initStep o (some 0xF9) 8 narrow = .refused .regionWraps := by
  cases o <;> exact ⟨by decide, rfl⟩

/-- R80: a port's operands are `AW` and `W` bits wide. -/
theorem test_issue_narrow :
    nextIs (step { State.resetAt ⟨4, 8⟩ with sched := [.issue .C ⟨0x107, 0x123, 0x1F, 0⟩] })
      (fun t => t.portC.a0 == 0x23 && t.portC.a1 == 0xF && t.portC.phase == .run 1) = true := by decide

/-! ### Witnesses: for each statement with hypotheses, a state and operands that meet them -/

/-- Ready, port `P` at `μ1`, nothing else going on. -/
def atMu1 (n w r : Nat) : State := atP 1 Temps.reset (ready n w r)

/-- The state with a packet latched on a port at `μk` and a schedule. -/
def latched (p : Port) (k : Nat) (i : Instr) (turns : List Turn) (s : State) : State :=
  { s.setPort p { (s.port p).latch (encode i) with phase := .run k } with sched := turns }

theorem atMu1_usable (n w r : Nat) (hn : n < 4294963201) (hw : w < n) (hr : r < n) :
    (atMu1 n w r).atMu 1 ∧ Usable (atMu1 n w r) := by
  refine ⟨rfl, rfl, ?_, ?_, ?_⟩ <;> simp [atMu1, atP, ready, State.reset, State.resetAt, Widths.default, Widths.memSize] <;> omega

theorem test_witness_EncodeOfDecodeIsThePacketUsed :
    decode ⟨0x00000006, 5, 6, 7⟩ = .ok .used ∧ decode ⟨0x00000109, 5, 6, 7⟩ = .ok (.peek (some 5) 6 7) := by decide

theorem test_witness_IllegalWordsAreRejectedByName :
    (0x00000200 / 512 ≠ 0 ∧ 0x00000011 / 512 = 0 ∧ 16 < 0x00000011 % 256) ∧
      decode ⟨0x00000102, 0, 0, 0⟩ = .error .pointerNotAllowed ∧ decode ⟨0x00000110, 0, 0, 0⟩ = .error .pointerNotAllowed := by
  decide

theorem test_witness_StepRunsTheDecodedCommand :
    (latched .C 4 .used [.run .C] (ready 8 3 4)).turn = .run .C ∧
      ((latched .C 4 .used [.run .C] (ready 8 3 4)).port .C).phase = .run 4 ∧
      decode ((latched .C 4 .used [.run .C] (ready 8 3 4)).port .C).packet = .ok .used := by decide

theorem test_witness_StepRunsThePlacedWord :
    (State.reset.widths = .default ∧ decodeTableWord 32 6 = some .used) ∧
      decode (packetOfNat narrow.widths (0x4_23_00000107 % 2 ^ 44)) = .ok (.write (some 0x23) 4) := by decide

theorem test_witness_IllegalWordCompletesWithZero :
    ((State.reset.withFetchWord 32 0x111).port .P).phase = .run 1 ∧
      decode ((State.reset.withFetchWord 32 0x111).port .P).packet = .error .unknownOpcode := by decide

theorem test_witness_IssueIsAcceptedByAnIdlePortOnly :
    ({ State.reset with sched := [.issue .C default] }.turn = .issue .C default ∧
      ({ State.reset with sched := [.issue .C default] }.port .C).phase = .idle) ∧
    ({ atMu1 8 0 0 with sched := [.issue .P default] }.turn = .issue .P default ∧
      ({ atMu1 8 0 0 with sched := [.issue .P default] }.port .P).phase ≠ .idle) := by decide

theorem test_witness_IdlePortHasNoMicroStep :
    { State.reset with sched := [.run .P] }.turn = .run .P ∧
      ({ State.reset with sched := [.run .P] }.port .P).phase = .idle := by decide

theorem test_witness_HardwareResetAbandonsEverything : { atMu1 8 3 4 with sched := [.hwReset] }.turn = .hwReset := by
  decide

theorem test_witness_OutsideAccessTouchesOneByte :
    { ready 8 3 4 with sched := [.outsideWrite 0xFFFFFFFF 7] }.turn = .outsideWrite 0xFFFFFFFF 7 ∧
      { ready 8 3 4 with sched := [.outsideRead 0] }.turn = .outsideRead 0 := by decide

/-- A region that ends at the very end of the address space, beside the other port at its `μ1`. -/
theorem test_witness_InitBindsTheRegion :
    (latched .C 1 .used [] (atMu1 8 3 4)).atMu 1 ∧ (4 : Nat) ≠ 0 ∧
      (0xFFFFFFFC : Nat) + (4 : Nat) ≤ 2 ^ 32 ∧
      (latched .C 1 .used [] (atMu1 8 3 4)).opposite.phase.mu ≤ 1 := ⟨rfl, by decide, by decide, by decide⟩

theorem test_witness_FailedInitChangesNothing :
    (atMu1 8 3 4).atMu 1 ∧ ((none : Option Nat) = none ∨ (8 : Nat) = 0) ∧
      ((some 0x1000 : Option Nat) = none ∨ (0 : Nat) = 0) := ⟨rfl, .inl rfl, .inr rfl⟩

theorem test_witness_LifecycleStopsWhereTheSpecGivesNoMeaning :
    ((atMu1 8 3 4).atMu 1 ∧ (4 : Nat) ≠ 0 ∧ 2 ^ 32 < (0xFFFFFFFD : Nat) + (4 : Nat)) ∧
    ((latched .C 2 .used [] (atMu1 8 3 4)).atMu 1 ∧ (latched .C 2 .used [] (atMu1 8 3 4)).bound = true ∧
      2 ≤ (latched .C 2 .used [] (atMu1 8 3 4)).opposite.phase.mu ∧
      (0xFFFFFFFC : Nat) + (4 : Nat) ≤ 2 ^ 32) ∧
    ((latched .C 2 .used [] (atP 2 Temps.reset (ready 8 3 4))).atMu 2 ∧
      2 ≤ (latched .C 2 .used [] (atP 2 Temps.reset (ready 8 3 4))).opposite.phase.mu) :=
  ⟨⟨rfl, by decide, by decide⟩, ⟨rfl, rfl, by decide, by decide⟩, rfl, by decide⟩

theorem test_witness_IsreadyReportsBound : (atMu1 8 3 4).atMu 1 ∧ (atP 1 Temps.reset State.reset).atMu 1 := ⟨rfl, rfl⟩

theorem test_witness_DetachClearsBoundOnly :
    ((atP 1 Temps.reset State.reset).atMu 1 ∧ (atP 1 Temps.reset State.reset).bound = false) ∧
    ((latched .C 1 .used [] (atMu1 8 3 4)).atMu 1 ∧ (latched .C 1 .used [] (atMu1 8 3 4)).opposite.phase.mu ≤ 1) :=
  ⟨⟨rfl, rfl⟩, rfl, by decide⟩

theorem test_witness_SetntfyInstallsOrRemovesTheHook :
    ((atP 1 Temps.reset State.reset).atMu 1 ∧ (atP 1 Temps.reset State.reset).bound = false) ∧
    ((atMu1 8 3 4).atMu 1 ∧ (atMu1 8 3 4).bound = true ∧ (some 0 : Option Nat) = some 0) := by
  exact ⟨⟨rfl, rfl⟩, rfl, rfl, rfl⟩

theorem test_witness_NotReadyIsAbsorbing :
    ((atP 1 Temps.reset State.reset).atMu 1 ∧ (atP 1 Temps.reset State.reset).bound = false ∧
      Instr.reset ≠ .isready ∧ ∀ region cap, Instr.reset ≠ .init region cap) ∧
    nextIs (exec (.init (some 0x1000) 8) (atP 1 Temps.reset State.reset)) (fun t => t.bound) = true :=
  ⟨⟨rfl, rfl, by decide, by simp⟩, by decide⟩

theorem test_witness_InvalidArgumentsChangeNothing :
    (atP 2 Temps.reset (ready 8 3 4)).atMu 2 ∧ (atMu1 8 3 4).atMu 1 ∧ (atMu1 8 3 4).bound = true ∧ (1 : Nat) ≠ 0 ∧
      (snap 8 3 7).sr < (snap 8 3 7).cap ∧
      (∃ p len, Instr.write none 1 = .write p len ∧ (p = none ∨ len = 0)) ∧
      (∃ p len skip, Instr.peek (some 9) 0 1 = .peek p len skip ∧ (p = none ∨ len = 0)) ∧
      (∃ len, Instr.advance 0 = .advance len ∧ len = 0) ∧
      (∃ p len, Instr.init (some 9) 0 = .init p len ∧ (p = none ∨ len = 0)) :=
  ⟨rfl, rfl, rfl, by decide, by decide, ⟨_, _, rfl, .inl rfl⟩, ⟨_, _, _, rfl, .inr rfl⟩, ⟨_, rfl, rfl⟩,
    ⟨_, _, rfl, .inr rfl⟩⟩

/-- For the four statements about the arithmetic: the smallest ring, and a full one with every clause's premise. -/
theorem test_witness_arithmetic :
    (0 < 1 ∧ 0 < 1) ∧ (7 < 8 ∧ 0 < 8 ∧ freeSpace 7 0 8 = 0 ∧ usedSpace 7 0 8 = 7) ∧ (3 < 4 ∧ 3 ≤ freeSpace 0 4 8) ∧
      (linWrite 6 0 8 ≠ 0 ∧ linWrite 6 1 8 ≠ 0 ∧ 1 ≤ 6 ∧ 0 < 1) := by decide

/-- For the four snapshot queries: both clauses, and the four states of an undisturbed run. -/
theorem test_witness_snapshot_queries (i : Instr) (h : i ∈ [Instr.used, .free, .lrlen, .lwlen]) :
    ((atP 1 Temps.reset State.reset).atMu 1 ∧ (atP 1 Temps.reset State.reset).bound = false) ∧
    ((atMu1 8 3 4).atMu 1 ∧ (atMu1 8 3 4).bound = true ∧
      ∃ t1 t2 t3 t4, exec i (atMu1 8 3 4) = .next t1 ∧ exec i t1 = .next t2 ∧ exec i t2 = .next t3 ∧
        exec i t3 = .next t4) := by
  simp only [List.mem_cons, List.not_mem_nil, or_false] at h
  refine ⟨⟨rfl, rfl⟩, rfl, rfl, ?_⟩
  rcases h with rfl | rfl | rfl | rfl <;>
    (simp only [exec, execUsed, execFree, execLrlen, execLwlen]; cases Config.snapOrder <;> exact ⟨_, _, _, _, rfl, rfl, rfl, rfl⟩)

theorem test_witness_AddressQueriesAnswerTheIndexAddress :
    (atMu1 8 7 4).atMu 1 ∧ (atMu1 8 7 4).bound = true ∧
      (∃ t1 t2 t3, exec .lraddr (atMu1 8 7 4) = .next t1 ∧ exec .lraddr t1 = .next t2 ∧ exec .lraddr t2 = .next t3) :=
  ⟨rfl, rfl, _, _, _, rfl, rfl, rfl⟩

/-- V-W3's state and length: clamped, wrapping, filling; a source buffer that ends at the end of the address space. -/
theorem test_witness_WriteCopiesPublishesAndReports :
    ((atMu1 8 6 4).atMu 1 ∧ Usable (atMu1 8 6 4)) ∧ 5 = min (9 : Nat) (freeSpace 6 4 8) ∧
      (0xFFFFFFFB : Nat) + 5 ≤ 2 ^ 32 ∧ rangesOverlap (0xFFFFFFFB : Nat) 5 0x1000 8 = false :=
  ⟨atMu1_usable 8 6 4 (by decide) (by decide) (by decide), by decide, by decide, by decide⟩

/-- V-R3's state and length; a destination buffer that touches the region's end. -/
theorem test_witness_ReadCopiesConsumesAndReports :
    ((atMu1 8 3 4).atMu 1 ∧ Usable (atMu1 8 3 4)) ∧ 7 = min (100 : Nat) (usedSpace 3 4 8) ∧
      (0x1008 : Nat) + 7 ≤ 2 ^ 32 ∧ rangesOverlap (0x1008 : Nat) 7 0x1000 8 = false :=
  ⟨atMu1_usable 8 3 4 (by decide) (by decide) (by decide), by decide, by decide, by decide⟩

/-- V-P3: one byte past the skip. -/
theorem test_witness_PeekCopiesAndLeavesTheRing :
    ((atMu1 8 3 4).atMu 1 ∧ Usable (atMu1 8 3 4)) ∧ 1 = min (5 : Nat) (usedSpace 3 4 8 - (6 : Nat)) ∧
      (0xFFF : Nat) + 1 ≤ 2 ^ 32 ∧ rangesOverlap (0xFFF : Nat) 1 0x1000 8 = false :=
  ⟨atMu1_usable 8 3 4 (by decide) (by decide) (by decide), by decide, by decide, by decide⟩

/-- V-S5, V-V6. -/
theorem test_witness_IndexMovesClampPublishAndReport :
    ((atMu1 8 3 4).atMu 1 ∧ Usable (atMu1 8 3 4)) ∧ 4 = min (4 : Nat) (usedSpace 3 4 8) ∧
      ((atMu1 8 0 0).atMu 1 ∧ Usable (atMu1 8 0 0)) ∧ 7 = min (0xFFFFFFFF : Nat) (freeSpace 0 0 8) :=
  ⟨atMu1_usable 8 3 4 (by decide) (by decide) (by decide), by decide,
    atMu1_usable 8 0 0 (by decide) (by decide) (by decide), by decide⟩

theorem test_witness_ResetEmptiesTheReadyBuffer :
    (latched .C 1 .used [] (atMu1 8 3 4)).atMu 1 ∧ (latched .C 1 .used [] (atMu1 8 3 4)).bound = true ∧
      (latched .C 1 .used [] (atMu1 8 3 4)).opposite.phase.mu ≤ 1 := ⟨rfl, rfl, by decide⟩

/-- Full, empty, and a skip of exactly the used space. -/
theorem test_witness_NothingToMoveChangesNothing :
    ((atMu1 8 3 4).atMu 1 ∧ Usable (atMu1 8 3 4) ∧ freeSpace 3 4 8 = 0) ∧
    ((atMu1 1 0 0).atMu 1 ∧ Usable (atMu1 1 0 0) ∧ freeSpace 0 0 1 = 0 ∧ usedSpace 0 0 1 = 0) ∧
    usedSpace 3 4 8 ≤ (7 : Nat) :=
  ⟨⟨rfl, (atMu1_usable 8 3 4 (by decide) (by decide) (by decide)).2, by decide⟩,
    ⟨rfl, (atMu1_usable 1 0 0 (by decide) (by decide) (by decide)).2, by decide, by decide⟩, by decide⟩

/-- One byte too far, and one byte of overlap at either end of the region. -/
theorem test_witness_CopyStopsOnABadCallerBuffer :
    ((atMu1 8 6 4).atMu 1 ∧ Usable (atMu1 8 6 4)) ∧ 5 = min (9 : Nat) (freeSpace 6 4 8) ∧
      2 = min (3 : Nat) (usedSpace 6 4 8) ∧ 1 = min (3 : Nat) (usedSpace 6 4 8 - (1 : Nat)) ∧
      2 ^ 32 < (0xFFFFFFFC : Nat) + 5 ∧ 2 ^ 32 < (0xFFFFFFFF : Nat) + 2 ∧
      (0x1007 : Nat) + 5 ≤ 2 ^ 32 ∧ rangesOverlap (0x1007 : Nat) 5 0x1000 8 = true ∧
      rangesOverlap (0xFFF : Nat) 2 0x1000 8 = true ∧ rangesOverlap (0x1000 : Nat) 1 0x1000 8 = true :=
  ⟨atMu1_usable 8 6 4 (by decide) (by decide) (by decide), by decide, by decide, by decide, by decide, by decide,
    by decide, by decide, by decide, by decide⟩

theorem test_witness_IndexMovesMatchTheCopies :
    ((atMu1 8 6 4).atMu 1 ∧ Usable (atMu1 8 6 4)) ∧ 2 = min (3 : Nat) (usedSpace 6 4 8) ∧
      5 = min (9 : Nat) (freeSpace 6 4 8) ∧ (0x3000 : Nat) + 5 ≤ 2 ^ 32 ∧
      rangesOverlap (0x3000 : Nat) 5 0x1000 8 = false ∧ rangesOverlap (0x3000 : Nat) 2 0x1000 8 = false :=
  ⟨atMu1_usable 8 6 4 (by decide) (by decide) (by decide), by decide, by decide, by decide, by decide, by decide⟩

/-- X3b's state: empty at (3, 3) of 4, all 3 bytes. -/
theorem test_witness_WriteThenReadReturnsTheBytes :
    (latched .C 1 .used [] (atMu1 4 3 3)).cur = .P ∧ (latched .C 1 .used [] (atMu1 4 3 3)).atMu 1 ∧
      (latched .C 1 .used [] (atMu1 4 3 3)).portC.phase = .run 1 ∧ Usable (latched .C 1 .used [] (atMu1 4 3 3)) ∧
      3 = (3 : Nat) ∧ 3 ≤ freeSpace 3 3 4 ∧ (0x2000 : Nat) + 3 ≤ 2 ^ 32 ∧
      rangesOverlap (0x2000 : Nat) 3 0x1000 4 = false ∧ rangesOverlap (0xFFD : Nat) 3 0x1000 4 = false :=
  ⟨rfl, rfl, rfl, ⟨rfl, by decide, by decide, by decide⟩, by decide, by decide, by decide, by decide, by decide⟩

theorem test_witness_QueriesChangeTheirPortOnly (i : Instr)
    (h : i ∈ [Instr.isready, .free, .used, .lraddr, .lrlen, .lwaddr, .lwlen]) :
    nextIs (exec i (atMu1 8 3 4)) (fun _ => true) = true := by
  simp only [List.mem_cons, List.not_mem_nil, or_false] at h
  rcases h with rfl | rfl | rfl | rfl | rfl | rfl | rfl <;> decide

/-- WRITE, READ and PEEK at a `MemWrite`, and at a `MemRead`. -/
theorem test_witness_CopyFrame :
    (storeAddr (.write (some 0x2000) 2) (atP 8 { snap 4 3 2 with n := 2, c1 := 1, i := 1 } (ready 4 3 2))
        = some 0x1000) ∧
    (storeAddr (.read (some 0x3000) 2) (atC 8 { snap 8 3 4 with n := 2, c1 := 2, i := 1 } (ready 8 3 4)) = some 0x3001) ∧
    (storeAddr (.peek (some 0x3000) 2 0) (atC 8 { snap 8 3 4 with n := 2, c1 := 2, i := 1, s0 := 4 } (ready 8 3 4))
        = some 0x3001) ∧
    (storeAddr (.write (some 0x2000) 2) (atP 7 { snap 4 3 2 with n := 2, c1 := 1, i := 1 } (ready 4 3 2)) = none) ∧
    (loadAddr (.write (some 0x2000) 2) (atP 7 { snap 4 3 2 with n := 2, c1 := 1, i := 1 } (ready 4 3 2)) = some 0x2001) ∧
    (loadAddr (.read (some 0x3000) 2) (atC 7 { snap 8 3 4 with n := 2, c1 := 2, i := 1 } (ready 8 3 4)) = some 0x1005) ∧
    (loadAddr (.peek (some 0x3000) 2 1) (atC 7 { snap 8 3 4 with n := 2, c1 := 2, i := 1, s0 := 5 } (ready 8 3 4))
        = some 0x1006) ∧
    nextIs (exec (.write (some 0x2000) 2) (atP 8 { snap 4 3 2 with n := 2, c1 := 1, i := 1 } (ready 4 3 2)))
      (fun _ => true) = true ∧
    nextIs (exec (.read (some 0x3000) 2) (atC 8 { snap 8 3 4 with n := 2, c1 := 2, i := 1 } (ready 8 3 4)))
      (fun _ => true) = true ∧
    nextIs (exec (.peek (some 0x3000) 2 0) (atC 8 { snap 8 3 4 with n := 2, c1 := 2, i := 1, s0 := 4 } (ready 8 3 4)))
      (fun _ => true) = true ∧
    nextIs (exec (.write (some 0x2000) 2) (atP 7 { snap 4 3 2 with n := 2, c1 := 1, i := 1 } (ready 4 3 2)))
      (fun _ => true) = true := by decide

/-- Also for `OnlyCompleteWritesResults`: each command answers a next state. -/
theorem test_witness_NonCopyFrame :
    nextIs (exec (.init (some 0x1800) 4) (atMu1 8 3 4)) (fun _ => true) = true ∧
    nextIs (exec .detach (atMu1 8 3 4)) (fun _ => true) = true ∧
    nextIs (exec (.setntfy none) (atMu1 8 3 4)) (fun _ => true) = true ∧
    nextIs (exec (.skip 5) (atMu1 8 3 4)) (fun t => t.me.phase != .idle) = true ∧
    nextIs (exec (.advance 5) (atMu1 8 3 4)) (fun _ => true) = true ∧
    nextIs (exec .reset (atMu1 8 3 4)) (fun _ => true) = true := by decide

/-- Each index store changes its index; RESET and INIT both. -/
theorem test_witness_EachIndexHasItsWriters :
    nextIs (exec (.write (some 0x2000) 2) (atP 9 { snap 8 6 4 with n := 2, c1 := 2, i := 2 } (ready 8 6 4)))
      (fun t => t.wpos != 6) = true ∧
    nextIs (exec (.skip 5) (atC 5 { snap 8 3 4 with n := 5 } (ready 8 3 4))) (fun t => t.rpos != 4) = true ∧
    nextIs (exec .reset (atP 2 (snap 8 3 4) (ready 8 3 4))) (fun t => t.me.phase == .run 3) = true ∧
    nextIs (exec (.init (some 0x1800) 4) (atMu1 8 3 4)) (fun t => t.me.r0 == 1 && t.wpos != 3 && t.rpos != 4) = true := by
  decide

/-- It becomes ready, becomes not ready (both ways), stays not ready, and both answers of INIT. -/
theorem test_witness_LifecycleIsTwoStates :
    nextIs (step (latched .P 1 (.init (some 0x1000) 8) [.run .P] State.reset)) (fun t => t.bound && t.portP.r0 == 1)
      = true ∧
    nextIs (step (latched .C 1 .detach [.run .C] (ready 8 3 4))) (fun t => !t.bound) = true ∧
    nextIs (step { ready 8 3 4 with sched := [.hwReset] }) (fun t => !t.bound) = true ∧
    nextIs (step (latched .C 1 .isready [.run .C] State.reset)) (fun t => !t.bound) = true ∧
    nextIs (exec (.init none 8) (atMu1 8 3 4)) (fun t => t.me.r0 == 0) = true ∧
    nextIs (exec (.init (some 0x1800) 4) (atMu1 8 3 4)) (fun t => t.me.r0 == 1) = true := by decide

/-- The hook changes; an event is lost; an event is appended. -/
theorem test_witness_OneEnableForAllEvents :
    nextIs (step (latched .P 1 (.setntfy none) [.run .P] (ready 8 3 4))) (fun t => !t.nen) = true ∧
    nextIs (step (latched .P 3 .reset [.run .P] { ready 8 0 0 with nen := false })) (fun t => t.evq == []) = true ∧
    nextIs (step (latched .P 3 .reset [.run .P] (ready 8 0 0))) (fun t => t.evq.length == 1) = true := by decide

/-- The emit micro-step of each of the five commands, with the hook installed. -/
theorem test_witness_OneEnableForAllEvents_emits :
    EmitsAt (.write (some 0x2000) 2) (atP 10 { snap 8 6 4 with n := 2, c1 := 2, i := 2 } (ready 8 0 4)) .write 2 ∧
    EmitsAt (.advance 2) (atP 6 { snap 8 6 4 with n := 2 } (ready 8 0 4)) .write 2 ∧
    EmitsAt (.read (some 0x3000) 2) (atC 10 { snap 8 6 4 with n := 2, c1 := 2, i := 2 } (ready 8 6 6)) .read 2 ∧
    EmitsAt (.skip 2) (atC 6 { snap 8 6 4 with n := 2 } (ready 8 6 6)) .read 2 ∧
    EmitsAt .reset (atC 3 (snap 8 3 4) (ready 8 0 0)) .reset 0 ∧ (ready 8 0 0).nen = true :=
  ⟨.inl ⟨⟨_, _, rfl⟩, rfl, rfl, rfl, rfl⟩, .inr (.inl ⟨⟨_, rfl⟩, rfl, rfl, rfl⟩),
    .inr (.inr (.inl ⟨⟨_, _, rfl⟩, rfl, rfl, rfl, rfl⟩)), .inr (.inr (.inr (.inl ⟨⟨_, rfl⟩, rfl, rfl, rfl⟩))),
    .inr (.inr (.inr (.inr ⟨rfl, rfl, rfl, rfl⟩))), rfl⟩

/-- One of each of the three kinds. -/
theorem test_witness_EventsComeFromTheirSources :
    nextIs (exec (.write (some 0x2000) 2) (atP 10 { snap 8 6 4 with n := 2, c1 := 2, i := 2 } (ready 8 0 4)))
      (fun t => t.evq == [⟨.P, 0x800, .write, 2⟩]) = true ∧
    nextIs (exec (.skip 5) (atC 6 { snap 8 3 4 with n := 5 } (ready 8 3 1))) (fun t => t.evq == [⟨.C, 0x800, .read, 5⟩])
      = true ∧
    nextIs (exec .reset (atC 3 (snap 8 3 4) (ready 8 0 0))) (fun t => t.evq == [⟨.C, 0x800, .reset, 0⟩]) = true := by
  decide

/-! Both copies in flight: V-W2's WRITE about to write its second byte, a READ about to read its first. -/

/-- `P: WRITE @0x2000, 5` at its second `MemWrite`, `C: READ @0x3000, 7` at its first `MemRead`, on N=8 (6, 4). -/
def busyState : State :=
  { ready 8 6 4 with
    portP := { PortRegs.reset.latch (encode (.write (some 0x2000) 5)) with
      phase := .run 8, tmp := { snap 8 6 4 with n := 5, c1 := 2, i := 1, t := 0x31 } }
    portC := { PortRegs.reset.latch (encode (.read (some 0x3000) 7)) with
      phase := .run 5, tmp := { snap 8 6 4 with n := 2, c1 := 2, i := 0 } }
    mem := [(0x1006, 0x30), (0x2000, 0x30), (0x2001, 0x31)] }

/-- The same with a turn to come. -/
def busy (turn : Turn) : State := { busyState with sched := [turn] }

/-- What `decode` and the phase of a busy port fix. -/
theorem busy_portP {i : Instr} (h : decode busyState.portP.packet = .ok i) : i = .write (some 0x2000) 5 := by
  have : decode busyState.portP.packet = .ok (.write (some 0x2000) 5) := by decide
  rw [this] at h
  exact (Except.ok.inj h).symm

theorem busy_portC {i : Instr} (h : decode busyState.portC.packet = .ok i) : i = .read (some 0x3000) 7 := by
  have : decode busyState.portC.packet = .ok (.read (some 0x3000) 7) := by decide
  rw [this] at h
  exact (Except.ok.inj h).symm

theorem loadedInRange_of_both {k : Nat} {t : Temps} (h1 : t.sw < t.cap) (h2 : t.sr < t.cap) :
    loadedInRange k t := by
  unfold loadedInRange
  split <;> exact ⟨fun _ => ‹_›, fun _ => ‹_›⟩

theorem busyState_fits : Fits busyState := by
  unfold Fits PortRegs.inWidth
  decide

theorem busyState_inv : Inv busyState := by
  refine ⟨fun _ => ⟨rfl, by decide, by decide, by decide⟩, ?_, ?_, by decide, busyState_fits⟩
  · refine ⟨by decide, fun _ => ⟨rfl, rfl, rfl, .write (some 0x2000) 5, by decide, fun _ => by decide, ?_, fun _ => ?_⟩⟩
    · exact loadedInRange_of_both (by decide) (by decide)
    · exact ⟨by decide, by decide, by decide, by decide, by decide, by decide, by decide, .inl (by decide)⟩
  · refine ⟨by decide, fun _ => ⟨rfl, rfl, rfl, .read (some 0x3000) 7, by decide, fun _ => by decide, ?_, fun _ => ?_⟩⟩
    · exact loadedInRange_of_both (by decide) (by decide)
    · exact ⟨by decide, by decide, by decide, by decide, by decide, by decide, by decide, .inl (by decide)⟩

theorem busyState_roles : Roles busyState := by
  intro p i _ hd
  cases p
  · rw [busy_portP hd]; rfl
  · rw [busy_portC hd]; rfl

theorem busyState_conservative : Conservative busyState := by
  constructor <;> intro k i hk hd _ _
  · exact ⟨fun _ => rfl, fun _ => by decide⟩
  · exact ⟨fun _ => rfl, fun _ => by decide⟩

theorem busyState_faithful : writeFaithful busyState ∧ readFaithful busyState ∧ peekFaithful busyState := by
  refine ⟨?_, ?_, fun k dst len skip _ hd => by cases busy_portC hd⟩
  · intro k src len hk hd _ _
    obtain ⟨rfl, rfl⟩ := Instr.write.inj (busy_portP hd)
    refine ⟨fun j hj => ?_, fun _ => by decide⟩
    have : j = 0 := by
      have : busyState.portP.tmp.i = 1 := rfl
      omega
    subst this
    decide
  · intro k dst len hk hd _ _
    obtain ⟨rfl, rfl⟩ := Instr.read.inj (busy_portC hd)
    refine ⟨fun j hj => ?_, fun h => ?_⟩
    · have : busyState.portC.tmp.i = 0 := rfl
      omega
    · cases hk
      have : busyState.portC.tmp.i = 0 := rfl
      omega

theorem busy_inv (turn : Turn) : Inv (busy turn) := busyState_inv
theorem busy_roles (turn : Turn) : Roles (busy turn) := busyState_roles
theorem busy_conservative (turn : Turn) : Conservative (busy turn) := busyState_conservative
theorem busy_faithful (turn : Turn) : writeFaithful (busy turn) ∧ readFaithful (busy turn) ∧ peekFaithful (busy turn) :=
  busyState_faithful

theorem test_witness_InvariantAtReset : 1 ≤ Widths.default.w ∧ 1 ≤ (⟨4, 8⟩ : Widths).w := by decide

/-- For `StepKeepsTheInvariant`, `StepNeverFaults` and `RunningPortAlwaysMoves`. -/
theorem test_witness_StepKeepsTheInvariant :
    Inv (busy (.run .P)) ∧ (busy (.run .P)).turn = .run .P ∧ ((busy (.run .P)).port .P).phase = .run 8 ∧
      nextIs (step (busy (.run .P))) (fun t => t.mem == [(0x1006, 0x30), (0x1007, 0x31), (0x2000, 0x30), (0x2001, 0x31)])
        = true :=
  ⟨busy_inv _, rfl, rfl, by decide⟩

/-- `P` has another command at `μk` and the next turn, on N=8 (6, 4), beside the READ in flight on `C`. -/
def stopping (k : Nat) (i : Instr) : State :=
  { busyState with
    portP := { PortRegs.reset.latch (encode i) with phase := .run k, tmp := snap 8 6 4 }, sched := [.run .P] }

/-- The hypotheses of `RunningPortAlwaysMoves`, in each situation that stops a command. -/
theorem test_witness_RunningPortAlwaysMoves_init :
    (Inv (stopping 1 (.init (some 0x1800) 4)) ∧
      StopsAs (.init (some 0x1800) 4) { (stopping 1 (.init (some 0x1800) 4)).tookTurn with cur := .P } .notQuiescent) ∧
    (Inv (stopping 1 (.init (some 0xFFFFFFFD) 4)) ∧
      StopsAs (.init (some 0xFFFFFFFD) 4) { (stopping 1 (.init (some 0xFFFFFFFD) 4)).tookTurn with cur := .P }
        .regionWraps) := by
  have hp : ∀ i, portOk (stopping 1 i) (stopping 1 i).portP := fun i => ⟨Nat.le_refl 1, fun h => by omega⟩
  refine ⟨⟨⟨busyState_inv.1, hp _, busyState_inv.2.2.1, busyState_inv.2.2.2.1, ?_⟩, ?_⟩,
    ⟨busyState_inv.1, hp _, busyState_inv.2.2.1, busyState_inv.2.2.2.1, ?_⟩, ?_⟩
  · unfold Fits PortRegs.inWidth; decide
  · exact .inr (.inl ⟨rfl, by decide, .inl ⟨_, _, rfl, rfl, by decide, by decide⟩⟩)
  · unfold Fits PortRegs.inWidth; decide
  · exact .inl ⟨rfl, _, _, rfl, rfl, by decide, by decide⟩

theorem test_witness_RunningPortAlwaysMoves_reset :
    (Inv (stopping 1 .detach) ∧
      StopsAs .detach { (stopping 1 .detach).tookTurn with cur := .P } .notQuiescent) ∧
    (Inv (stopping 2 .reset) ∧ StopsAs .reset { (stopping 2 .reset).tookTurn with cur := .P } .notQuiescent) := by
  refine ⟨⟨⟨busyState_inv.1, ⟨Nat.le_refl 1, fun h => ?_⟩, busyState_inv.2.2.1, busyState_inv.2.2.2.1, ?_⟩, ?_⟩,
    ⟨busyState_inv.1, ⟨by decide, fun _ => ⟨rfl, rfl, rfl, .reset, by decide, ?_⟩⟩, busyState_inv.2.2.1,
      busyState_inv.2.2.2.1, ?_⟩, ?_⟩
  · omega
  · unfold Fits PortRegs.inWidth; decide
  · exact .inr (.inl ⟨rfl, by decide, .inr (.inl ⟨rfl, rfl, rfl⟩)⟩)
  · show 2 ≤ 4; decide
  · unfold Fits PortRegs.inWidth; decide
  · exact .inr (.inl ⟨rfl, by decide, .inr (.inr ⟨rfl, rfl⟩)⟩)

/-- One byte past the address space, and one byte of overlap. -/
theorem test_witness_RunningPortAlwaysMoves_copy :
    (Inv (stopping 4 (.write (some 0xFFFFFFFC) 9)) ∧
      StopsAs (.write (some 0xFFFFFFFC) 9) { (stopping 4 (.write (some 0xFFFFFFFC) 9)).tookTurn with cur := .P }
        .bufferWraps) ∧
    (Inv (stopping 4 (.write (some 0x1007) 9)) ∧
      StopsAs (.write (some 0x1007) 9) { (stopping 4 (.write (some 0x1007) 9)).tookTurn with cur := .P }
        .bufferOverlapsRegion) := by
  have hp : ∀ a, portOk (stopping 4 (.write (some a) 9)) (stopping 4 (.write (some a) 9)).portP := fun a =>
    ⟨by decide, fun _ => ⟨rfl, rfl, rfl, .write (some a) 9, decode_encodeFields 7 (by decide) (some a) 9 0, fun _ => rfl,
      loadedInRange_of_both (by decide : (6 : Nat) < 8) (by decide : (4 : Nat) < 8),
      fun h => absurd h (by decide : ¬ 5 ≤ 4)⟩⟩
  refine ⟨⟨⟨busyState_inv.1, hp _, busyState_inv.2.2.1, busyState_inv.2.2.2.1, ?_⟩, ?_⟩,
    ⟨busyState_inv.1, hp _, busyState_inv.2.2.1, busyState_inv.2.2.2.1, ?_⟩, ?_⟩
  · unfold Fits PortRegs.inWidth; decide
  · unfold StopsAs effectiveLength
    cases Config.snapOrder <;> exact .inr (.inr (.inl ⟨rfl, rfl, by decide, by decide⟩))
  · unfold Fits PortRegs.inWidth; decide
  · unfold StopsAs effectiveLength
    cases Config.snapOrder <;> exact .inr (.inr (.inr ⟨rfl, rfl, by decide, by decide, by decide⟩))

/-- The last micro-step of the longest command on the smallest ring that holds a byte, `2N + 5`, and the other
clauses: a micro-step in the middle, another agent's turn, the hardware reset. -/
theorem test_witness_CommandsEndWithinTheirBound :
    (Inv (latched .P 9 (.write (some 0x2000) 1) [.run .P]
        (atP 9 { snap 2 0 0 with n := 1, c1 := 1, i := 1 } (ready 2 1 0))) ∧
      ((latched .P 9 (.write (some 0x2000) 1) [.run .P]
        (atP 9 { snap 2 0 0 with n := 1, c1 := 1, i := 1 } (ready 2 1 0))).port .P).phase = .run (2 * 2 + 5) ∧
      nextIs (step (latched .P 9 (.write (some 0x2000) 1) [.run .P]
        (atP 9 { snap 2 0 0 with n := 1, c1 := 1, i := 1 } (ready 2 1 0)))) (fun t => done t 1 0 false) = true) ∧
    (Inv (busy (.run .P)) ∧ nextIs (step (busy (.run .P))) (fun t => t.portP.phase == .run 9 && t.portC.phase == .run 5)
      = true) ∧
    (Inv (busy .hwReset) ∧ nextIs (step (busy .hwReset)) (fun t => t.portP.phase == .idle) = true) := by
  refine ⟨⟨⟨fun _ => ⟨rfl, by decide, by decide, by decide⟩, ?_, trivial, by decide, ?_⟩, rfl, by decide⟩,
    ⟨busy_inv _, by decide⟩, busy_inv _, by decide⟩
  · refine ⟨by decide, fun _ => ⟨rfl, rfl, rfl, .write (some 0x2000) 1, by decide, fun _ => by decide, ?_, fun _ => ?_⟩⟩
    · exact loadedInRange_of_both (by decide) (by decide)
    · exact ⟨by decide, by decide, by decide, by decide, by decide, by decide, by decide, .inr (by decide)⟩
  · unfold Fits PortRegs.inWidth; decide

theorem test_witness_SnapshotsStayConservative :
    Inv (busy (.run .P)) ∧ Roles (busy (.run .P)) ∧ Conservative (busy (.run .P)) ∧ roleTurn (busy (.run .P)).turn ∧
      nextIs (step (busy (.run .P))) (fun _ => true) = true :=
  ⟨busy_inv _, busy_roles _, busy_conservative _, trivial, by decide⟩

/-- Both clauses: the producer's store and the consumer's load. -/
theorem test_witness_CopiesStayInTheirRanges :
    Inv (busy (.run .P)) ∧ Roles (busy (.run .P)) ∧ Conservative (busy (.run .P)) ∧
      (busy (.run .P)).runs .P (.write (some 0x2000) 5) ∧
      storeAddr (.write (some 0x2000) 5) { busy (.run .P) with cur := .P } = some 0x1007 ∧
      (busy (.run .P)).runs .C (.read (some 0x3000) 7) ∧
      loadAddr (.read (some 0x3000) 7) { busy (.run .P) with cur := .C } = some 0x1004 :=
  ⟨busy_inv _, busy_roles _, busy_conservative _, ⟨by decide, by decide⟩, by decide, ⟨by decide, by decide⟩, by decide⟩

theorem test_witness_TheRingIsAFifo :
    Inv (busy (.run .C)) ∧ Roles (busy (.run .C)) ∧ Conservative (busy (.run .C)) ∧ roleTurn (busy (.run .C)).turn ∧
      (busy (.run .C)).bound = true ∧ (∀ a v, (busy (.run .C)).turn = .outsideWrite a v → ¬ inRegion (busy (.run .C)) (a % (busy (.run .C)).widths.memSize)) ∧
      nextIs (step (busy (.run .P))) (fun t => t.bound) = true :=
  ⟨busy_inv _, busy_roles _, busy_conservative _, trivial, rfl, (fun _ _ h => by cases h), by decide⟩

/-- The two stores of the FIFO statement do happen: the producer's and the consumer's index store. -/
theorem test_witness_TheRingIsAFifo_stores :
    nextIs (step (latched .P 5 (.advance 2) [.run .P] (atP 5 { snap 8 6 4 with n := 2 } (ready 8 6 4))))
      (fun t => (content t).length == 4) = true ∧
    nextIs (step (latched .C 5 (.skip 2) [.run .C] (atC 5 { snap 8 6 4 with n := 2 } (ready 8 6 4))))
      (fun t => content t == []) = true := by decide

theorem test_witness_CopiesInFlightAreFaithful :
    Inv (busy (.outsideWrite 0x5000 1)) ∧ Roles (busy (.outsideWrite 0x5000 1)) ∧
      Conservative (busy (.outsideWrite 0x5000 1)) ∧ roleTurn (busy (.outsideWrite 0x5000 1)).turn ∧
      buffersLeftAlone (busy (.outsideWrite 0x5000 1)) ∧ writeFaithful (busy (.outsideWrite 0x5000 1)) ∧
      readFaithful (busy (.outsideWrite 0x5000 1)) ∧ peekFaithful (busy (.outsideWrite 0x5000 1)) ∧
      nextIs (step (busy (.outsideWrite 0x5000 1))) (fun _ => true) = true := by
  have hs : ∀ x, stepStores (busy (.outsideWrite 0x5000 1)) x → x = 0x5000 := by
    rintro x (⟨a, v, h, rfl⟩ | ⟨p, i, h, _⟩)
    · cases h; rfl
    · cases h
  refine ⟨busy_inv _, busy_roles _, busy_conservative _, trivial, ⟨?_, ?_, ?_, ?_⟩, (busy_faithful _).1,
    (busy_faithful _).2.1, (busy_faithful _).2.2, by decide⟩
  · intro x src len hx _ hr _
    obtain ⟨rfl, rfl⟩ := Instr.write.inj (busy_portP hr.2)
    rw [hs x hx]
    unfold inRange
    decide
  · intro x dst len hx _ hr _
    obtain ⟨rfl, rfl⟩ := Instr.read.inj (busy_portC hr.2)
    rw [hs x hx]
    unfold inRange
    decide
  · intro x dst len skip _ _ hr _
    cases busy_portC hr.2
  · intro a v h
    cases h
    unfold inRegion
    decide

/-- The WRITE of `busyState` beside `C: PEEK @0x3000, 7, skip 1`, about to write its one byte. -/
def peeking : State :=
  { busyState with
    portC := { PortRegs.reset.latch (encode (.peek (some 0x3000) 7 1)) with
      phase := .run 6, tmp := { snap 8 6 4 with n := 1, c1 := 1, i := 0, s0 := 5, t := 0x22 } }
    mem := [(0x1005, 0x22), (0x1006, 0x30), (0x2000, 0x30), (0x2001, 0x31)]
    sched := [.run .C] }

theorem peeking_portC {i : Instr} (h : decode peeking.portC.packet = .ok i) : i = .peek (some 0x3000) 7 1 := by
  have : decode peeking.portC.packet = .ok (.peek (some 0x3000) 7 1) := by decide
  rw [this] at h
  exact (Except.ok.inj h).symm

theorem peeking_inv : Inv peeking ∧ Roles peeking ∧ Conservative peeking := by
  refine ⟨⟨busyState_inv.1, busyState_inv.2.1, ?_, by decide, ?_⟩, ?_, ?_, ?_⟩
  · refine ⟨by decide, fun _ => ⟨rfl, rfl, rfl, .peek (some 0x3000) 7 1, by decide, fun _ => by decide, ?_, fun _ => ?_⟩⟩
    · exact loadedInRange_of_both (by decide) (by decide)
    · exact ⟨by decide, by decide, by decide, by decide, by decide, by decide, by decide, by decide, by decide, .inl (by decide)⟩
  · unfold Fits PortRegs.inWidth; decide
  · intro p i _ hd
    cases p
    · rw [busy_portP hd]; rfl
    · rw [peeking_portC hd]; rfl
  · exact busyState_conservative.1
  · intro k i hk hd _ _
    exact ⟨fun _ => rfl, fun _ => by decide⟩

/-- The same for a PEEK in flight, whose turn it is. -/
theorem test_witness_CopiesInFlightAreFaithful_peek :
    (Inv peeking ∧ Roles peeking ∧ Conservative peeking) ∧ roleTurn peeking.turn ∧ buffersLeftAlone peeking ∧
      writeFaithful peeking ∧ readFaithful peeking ∧ peekFaithful peeking ∧
      nextIs (step peeking) (fun t => t.mem.load 0x3000 == 0x22) = true := by
  have hs : ∀ x, stepStores peeking x → x = 0x3000 := by
    rintro x (⟨a, v, h, rfl⟩ | ⟨p, i, h, hr, hx⟩)
    · cases h
    · cases h
      rw [peeking_portC hr.2] at hx
      exact (Option.some.inj hx).symm
  refine ⟨peeking_inv, trivial, ⟨?_, fun _ _ _ _ h => absurd rfl h, fun _ _ _ _ _ h => absurd rfl h, ?_⟩, ?_, ?_, ?_,
    by decide⟩
  · intro x src len hx _ hr _
    obtain ⟨rfl, rfl⟩ := Instr.write.inj (busy_portP hr.2)
    rw [hs x hx]
    unfold inRange
    decide
  · intro a v h
    cases h
  · intro k src len hk hd _ _
    obtain ⟨rfl, rfl⟩ := Instr.write.inj (busy_portP hd)
    refine ⟨fun j hj => ?_, fun _ => by decide⟩
    have : peeking.portP.tmp.i = 1 := rfl
    obtain rfl : j = 0 := by omega
    decide
  · intro k dst len _ hd
    cases peeking_portC hd
  · intro k dst len skip hk hd _ _
    obtain ⟨rfl, rfl, rfl⟩ := Instr.peek.inj (peeking_portC hd)
    refine ⟨fun j hj => ?_, fun _ => by decide⟩
    have : peeking.portC.tmp.i = 0 := rfl
    omega

end Sys2Proof.Tests
end

/-! Proofs of the lifecycle statements (spec/40_lifecycle.md): ISREADY (R111), and the not-ready state (R114). -/

namespace Sys2Proof.Machine

/-! ### The first micro-step of each command -/

section FirstMicroStep

variable {s : State} (h : s.atMu 1)
include h

theorem snapshotQuery_of_atMu_one (o : SnapOrder) (figure : Temps → Nat) :
    snapshotQuery o figure s = .next (readyCheck s) := by
  simp [snapshotQuery, mu_of_atMu h]

theorem addressQuery_of_atMu_one (load : State → Temps) (index : Temps → Nat) :
    addressQuery load index s = .next (readyCheck s) := by
  simp [addressQuery, mu_of_atMu h]

theorem indexMove_of_atMu_one (o : SnapOrder) (len : Nat) (avail : Temps → Nat) (store : State → State)
    (k : EventKind) : indexMove o len avail store k s = .next (readyCheck s) := by
  simp [indexMove, mu_of_atMu h]

theorem writeStep_of_atMu_one (o : SnapOrder) (src : Option Nat) (len : Nat) :
    writeStep o src len s = .next (readyCheck s) := by
  simp [writeStep, mu_of_atMu h]

theorem readStep_of_atMu_one (o : SnapOrder) (dst : Option Nat) (len : Nat) :
    readStep o dst len s = .next (readyCheck s) := by
  simp [readStep, mu_of_atMu h]

theorem peekStep_of_atMu_one (o : SnapOrder) (dst : Option Nat) (len skip : Nat) :
    peekStep o dst len skip s = .next (readyCheck s) := by
  simp [peekStep, mu_of_atMu h]

theorem execReset_of_atMu_one : execReset s = .next (readyCheck s) := by
  simp [execReset, mu_of_atMu h]

theorem execIsready_of_atMu_one : execIsready s = .next (s.complete (boolResult s.bound) none) := by
  simp [execIsready, mu_of_atMu h]

theorem execDetach_of_notReady (hb : s.bound = false) : execDetach s = .next s.completeZero := by
  simp [execDetach, mu_of_atMu h, hb]

theorem execSetntfy_of_notReady (handle : Option Nat) (hb : s.bound = false) :
    execSetntfy handle s = .next s.completeZero := by
  simp [execSetntfy, mu_of_atMu h, hb]

/-- `ReadyCheck` is the first micro-step of every command but the four of spec/40_lifecycle.md, which have only one
(R15). -/
theorem exec_of_atMu_one {i : Instr} (hinit : ∀ region cap, i ≠ .init region cap) (hready : i ≠ .isready)
    (hdetach : i ≠ .detach) (hhook : ∀ handle, i ≠ .setntfy handle) : exec i s = .next (readyCheck s) := by
  cases i with
  | init region cap => exact absurd rfl (hinit region cap)
  | isready => exact absurd rfl hready
  | detach => exact absurd rfl hdetach
  | setntfy handle => exact absurd rfl (hhook handle)
  | free => exact snapshotQuery_of_atMu_one h _ _
  | used => exact snapshotQuery_of_atMu_one h _ _
  | write src len => exact writeStep_of_atMu_one h _ src len
  | read dst len => exact readStep_of_atMu_one h _ dst len
  | peek dst len skip => exact peekStep_of_atMu_one h _ dst len skip
  | skip len => exact indexMove_of_atMu_one h _ len _ _ _
  | advance len => exact indexMove_of_atMu_one h _ len _ _ _
  | lraddr => exact addressQuery_of_atMu_one h (fun _ => _) _
  | lrlen => exact snapshotQuery_of_atMu_one h _ _
  | lwaddr => exact addressQuery_of_atMu_one h (fun _ => _) _
  | lwlen => exact snapshotQuery_of_atMu_one h _ _
  | reset => exact execReset_of_atMu_one h

/-- On a buffer that is not ready the one micro-step of a command is the zero result (R114). -/
theorem exec_of_notReady {i : Instr} (hb : s.bound = false) (hready : i ≠ .isready)
    (hinit : ∀ region cap, i ≠ .init region cap) : exec i s = .next s.completeZero := by
  by_cases hdetach : i = .detach
  · subst hdetach
    exact execDetach_of_notReady h hb
  by_cases hhook : ∃ handle, i = .setntfy handle
  · obtain ⟨handle, rfl⟩ := hhook
    exact execSetntfy_of_notReady h handle hb
  · rw [exec_of_atMu_one h hinit hready hdetach (not_exists.mp hhook)]
    simp [readyCheck, hb]

end FirstMicroStep

/-! ### Results -/

theorem zeroResult_completeZero (s : State) : zeroResult s.completeZero := by
  simp [zeroResult]

theorem countResult_complete (s : State) (n : Nat) : countResult n (s.complete n none) := by
  simp [countResult, addrResult, avFlag]

/-! ### What can set `BOUND` -/

@[simp] theorem storeWpos_bound (s : State) : (storeWpos s).bound = s.bound := by simp [storeWpos]

@[simp] theorem storeRpos_bound (s : State) : (storeRpos s).bound = s.bound := by simp [storeRpos]

@[simp] theorem emitStep_bound (k : EventKind) (c : Nat) (s : State) : (emitStep k c s).bound = s.bound := by
  simp [emitStep]

/-- A micro-step that writes shared state leaves `BOUND`, or is INIT's or DETACH's (R21). -/
theorem SharedStep.bound_cases {i : Instr} {s t : State} (d : SharedStep i s t) :
    t.bound = s.bound ∨ (∃ region cap, i = .init region cap) ∨ t.bound = false := by
  cases d with
  | store a u _ _ h => exact .inl (by simp [h])
  | wpos _ h => exact .inl (by simp [h])
  | rpos _ h => exact .inl (by simp [h])
  | emitWrite _ h => exact .inl (by simp [h])
  | emitRead _ h => exact .inl (by simp [h])
  | emitReset _ _ h => exact .inl (by simp [h])
  | zero _ _ _ h => exact .inl (by simp [h])
  | init a cap hi _ _ _ _ _ => exact .inr (.inl ⟨some a, cap, hi⟩)
  | detach _ _ _ h => exact .inr (.inr (by simp [h]))
  | hook x _ _ h => exact .inl (by simp [h])

/-- INIT is the one command whose micro-step can set `BOUND` (R114). -/
theorem init_of_exec_sets_bound {i : Instr} {s t : State} (h : exec i s = .next t) (hs : s.bound = false)
    (ht : t.bound = true) : ∃ region cap, i = .init region cap := by
  rcases exec_next h with plain | shared
  · obtain ⟨⟨hbound, -, -⟩, -⟩ := plain.frame
    simp [hbound, hs] at ht
  · rcases shared.bound_cases with hbound | hinit | hbound
    · simp [hbound, hs] at ht
    · exact hinit
    · simp [hbound] at ht

/-! ### The statements -/

/-- Settles O17: ISREADY's one micro-step is a `Complete` with `BOUND`, which writes the stepping port only. -/
theorem isreadyReportsBound : Obligations.IsreadyReportsBound := by
  intro s h
  have hplain : PlainStep s (s.complete (boolResult s.bound) none) := .done _ _ rfl
  exact ⟨_, execIsready_of_atMu_one h, countResult_complete s _, hplain.frame⟩

/-- Settles O20: the first micro-step is the zero result, and of the micro-steps that write shared state only INIT's sets
`BOUND`. -/
theorem notReadyIsAbsorbing : Obligations.NotReadyIsAbsorbing := by
  refine ⟨fun s i h hb hready hinit => ?_, fun s t i => init_of_exec_sets_bound⟩
  have hplain : PlainStep s s.completeZero := .zero rfl
  obtain ⟨hbinding, hhook, hindices, hmem, hevq, hsurroundings⟩ := hplain.frame
  exact ⟨_, exec_of_notReady h hb hready hinit, zeroResult_completeZero s, hbinding, hhook, hindices, hmem, hevq,
    by simp, hsurroundings⟩

end Sys2Proof.Machine

/-! Proofs of the accounting statements (spec/41_accounting.md): the snapshot queries USED (R132) and FREE (R133). -/

namespace Sys2Proof.Machine

/-! ### The micro-steps of a snapshot query -/

theorem snapshotQuery_of_atMu_two {s : State} (h : s.atMu 2) (o : SnapOrder) (figure : Temps → Nat) :
    snapshotQuery o figure s = .next (s.goOn (firstLoad o s)) := by
  simp [snapshotQuery, mu_of_atMu h]

theorem snapshotQuery_of_atMu_three {s : State} (h : s.atMu 3) (o : SnapOrder) (figure : Temps → Nat) :
    snapshotQuery o figure s = .next (s.goOn (secondLoad o s)) := by
  simp [snapshotQuery, mu_of_atMu h]

theorem snapshotQuery_of_atMu_four {s : State} (h : s.atMu 4) (o : SnapOrder) (figure : Temps → Nat) :
    snapshotQuery o figure s = .next (s.complete (figure s.me.tmp) none) := by
  simp [snapshotQuery, mu_of_atMu h]

/-! ### What carries over between micro-steps -/

theorem sameOperands_refl (x : PortRegs) : sameOperands x x := ⟨rfl, rfl, rfl, rfl⟩

theorem sameOperands_trans {x y z : PortRegs} (hxy : sameOperands x y) (hyz : sameOperands y z) : sameOperands x z := by
  obtain ⟨hcw, h0, h1, h2⟩ := hxy
  obtain ⟨kcw, k0, k1, k2⟩ := hyz
  exact ⟨kcw.trans hcw, k0.trans h0, k1.trans h1, k2.trans h2⟩

/-- The micro-step a port is at is in the port's own registers. -/
theorem atMu_of_me_eq {s t : State} {k : Nat} (h : s.me = t.me) (ht : t.atMu k) : s.atMu k :=
  (congrArg PortRegs.phase h).trans ht

theorem goOn_atMu {s : State} {k : Nat} (h : s.atMu k) (u : Temps) : (s.goOn u).atMu (k + 1) := by
  simp [State.atMu, succ_of_atMu h]

/-- Whatever the state around the port has become, a micro-step that goes on writes the port only, steps the sequencer,
and keeps the operands it was issued with. -/
theorem goOn_portOnly {s : State} {k : Nat} {x : PortRegs} (h : s.atMu k) (hx : sameOperands x s.me) (u : Temps) :
    s.goOn u = s.setMe (s.goOn u).me ∧ (s.goOn u).atMu (k + 1) ∧ sameOperands x (s.goOn u).me := by
  obtain ⟨hme, hops, -⟩ := PlainStep.port_only (.go u rfl : PlainStep s (s.goOn u))
  exact ⟨hme, goOn_atMu h u, sameOperands_trans hx hops⟩

/-- The same of a `Complete`, after which no micro-step is left. -/
theorem complete_portOnly {s : State} {x : PortRegs} (hx : sameOperands x s.me) (r : Nat) (a : Option Nat) :
    s.complete r a = s.setMe (s.complete r a).me ∧ sameOperands x (s.complete r a).me := by
  obtain ⟨hme, hops, -⟩ := PlainStep.port_only (.done r a rfl : PlainStep s (s.complete r a))
  exact ⟨hme, sameOperands_trans hx hops⟩

/-! ### The snapshot queries -/

/-- A command that is a snapshot query answers its figure of the values its two loads found (R134). The temporaries are
the port's own, so the values loaded in `s2` and `s3` are still there in `s4`, and the capacity latched in `s1` too. -/
theorem snapshotQueryAnswers_of_exec {i : Instr} {f : Temps → Nat} {figure : Nat → Nat → Nat → Nat}
    (hexec : ∀ s, exec i s = snapshotQuery Config.snapOrder f s) (hf : ∀ u : Temps, f u = figure u.sw u.sr u.cap) :
    SnapshotQueryAnswers i figure := by
  unfold SnapshotQueryAnswers
  generalize Config.snapOrder = o at hexec ⊢
  intro s1 h1
  have hμ1 : exec i s1 = .next (readyCheck s1) := (hexec s1).trans (snapshotQuery_of_atMu_one h1 _ _)
  obtain ⟨hb, hcheck⟩ | ⟨hb, hcheck⟩ := readyCheck_cases s1 <;> rw [hcheck] at hμ1
  · exact ⟨fun _ => hμ1, by simp [hb]⟩
  refine ⟨by simp [hb], fun _ => ?_⟩
  obtain ⟨p1, a1, o1⟩ := goOn_portOnly h1 (sameOperands_refl s1.me) { s1.me.tmp with b := s1.base, cap := s1.cap }
  refine ⟨_, hμ1, p1, a1, o1, fun s2 m2 => ?_⟩
  have h2 : s2.atMu 2 := atMu_of_me_eq m2 a1
  obtain ⟨p2, a2, o2⟩ := goOn_portOnly h2 (m2 ▸ o1) (firstLoad o s2)
  refine ⟨_, (hexec s2).trans (snapshotQuery_of_atMu_two h2 _ _), p2, a2, o2, fun s3 m3 => ?_⟩
  have h3 : s3.atMu 3 := atMu_of_me_eq m3 a2
  obtain ⟨p3, a3, o3⟩ := goOn_portOnly h3 (m3 ▸ o2) (secondLoad o s3)
  refine ⟨_, (hexec s3).trans (snapshotQuery_of_atMu_three h3 _ _), p3, a3, o3, fun s4 m4 => ?_⟩
  have h4 : s4.atMu 4 := atMu_of_me_eq m4 a3
  obtain ⟨p4, o4⟩ := complete_portOnly (m4 ▸ o3) (f s4.me.tmp) none
  refine ⟨_, (hexec s4).trans (snapshotQuery_of_atMu_four h4 _ _), p4, o4, ?_⟩
  cases o <;> simpa [hf, m4, m3, m2, secondLoad, firstLoad] using countResult_complete s4 (f s4.me.tmp)

/-! ### The statements -/

/-- Settles O26: USED is the snapshot query of `U`. -/
theorem usedAnswersTheUsedSpaceOfItsSnapshot : Obligations.UsedAnswersTheUsedSpaceOfItsSnapshot :=
  snapshotQueryAnswers_of_exec (f := Temps.usedSpace) (fun _ => rfl) (fun _ => rfl)

/-- Settles O27: FREE is the snapshot query of `F`, which is `N − 1 − U` (R131). -/
theorem freeAnswersTheFreeSpaceOfItsSnapshot : Obligations.FreeAnswersTheFreeSpaceOfItsSnapshot :=
  snapshotQueryAnswers_of_exec (f := Temps.freeSpace) (fun _ => rfl) (fun _ => rfl)

end Sys2Proof.Machine

/-! Proofs of the linear-access statements (spec/44_linear.md): the snapshot queries LRLEN (R173) and LWLEN (R175). -/

namespace Sys2Proof.Machine

/-- Settles O28: LRLEN is the snapshot query of `LR`, whose two cases (R170) are the formula the statement writes out. -/
theorem lrlenAnswersTheLinearReadLength : Obligations.LrlenAnswersTheLinearReadLength :=
  snapshotQueryAnswers_of_exec (f := Temps.linRead) (fun _ => rfl) (fun _ => rfl)

/-- Settles O29: LWLEN is the snapshot query of `LW`, whose three cases (R171) are the formula the statement writes
out, the sentinel byte at `r = 0` included. -/
theorem lwlenAnswersTheLinearWriteLength : Obligations.LwlenAnswersTheLinearWriteLength :=
  snapshotQueryAnswers_of_exec (f := Temps.linWrite) (fun _ => rfl) (fun _ => rfl)

end Sys2Proof.Machine

/-! Proofs of the encoding statements (spec/30_encoding.md): the round trip (R88), the table (R82) and the illegal words
(R85, R87). -/

namespace Sys2Proof

/-! ### The command word and its fields -/

/-- A word whose `RSV` is 0 is its `OPC` and its `PV` (R81). -/
theorem word_eq_of_rsvField {cw : BitVec 32} (h : rsvField cw = 0) :
    cw = BitVec.ofNat 32 (opcField cw + if pvField cw then 0x100 else 0) := by
  rw [rsvField_eq] at h
  rw [opcField_eq, pvField_eq]
  apply BitVec.eq_of_toNat_eq
  rw [BitVec.toNat_ofNat]
  have hlt := cw.isLt
  by_cases hpv : cw.toNat / 256 % 2 = 1 <;> simp only [hpv, decide_true, decide_false, ↓reduceIte, Bool.false_eq_true] <;>
    omega

/-- A legal packet has no reserved bit, and its row of the table answers the command. -/
theorem decodeOpc_of_decode {p : Packet} {i : Instr} (h : decode p = .ok i) :
    rsvField p.cw = 0 ∧ decodeOpc (opcField p.cw) (pvField p.cw) p = .ok i := by
  unfold decode at h
  split at h
  · exact ⟨‹_›, h⟩
  · cases h

theorem noPointer_ok {pv : Bool} {i j : Instr} (h : noPointer pv i = .ok j) : pv = false ∧ j = i := by
  cases pv
  · exact ⟨rfl, (Except.ok.inj h).symm⟩
  · cases h

/-! ### Encode and decode -/

/-- Settles O1: the fields of an encoded word select its own row, which reads its own operands. -/
theorem decodeOfEncodeIsTheCommand : Obligations.DecodeOfEncodeIsTheCommand := by
  intro i
  cases i <;> (unfold encode; rw [decode_encodeFields _ (by decide)])
  case init region cap => exact congrArg (fun x => Except.ok (Instr.init x cap)) (ptrOperand_fields region)
  case setntfy handle => exact congrArg (fun x => Except.ok (Instr.setntfy x)) (ptrOperand_fields handle)
  case write src len => exact congrArg (fun x => Except.ok (Instr.write x len)) (ptrOperand_fields src)
  case read dst len => exact congrArg (fun x => Except.ok (Instr.read x len)) (ptrOperand_fields dst)
  case peek dst len skip => exact congrArg (fun x => Except.ok (Instr.peek x len skip)) (ptrOperand_fields dst)
  all_goals rfl

/-- The packet of a command its row of the table answers: the word of the row's fields, and the operands the row reads. -/
theorem encode_of_decodeOpc {opc : Nat} {pv : Bool} {p : Packet} {i : Instr} (h : decodeOpc opc pv p = .ok i) :
    encode i =
      { cw := BitVec.ofNat 32 (opc + if pv then 0x100 else 0)
        a0 := if pv then p.a0 else 0
        a1 := if i.mnemonic ∈ ["INIT", "WRITE", "READ", "PEEK", "SKIP", "ADVANCE"] then p.a1 else 0
        a2 := if i.mnemonic = "PEEK" then p.a2 else 0 } := by
  unfold decodeOpc at h
  split at h
  case h_17 => cases h
  case h_1 | h_4 | h_7 | h_8 | h_9 => cases h; cases pv <;> rfl
  all_goals
    obtain ⟨rfl, rfl⟩ := noPointer_ok h
    rfl

/-- Settles O2: a legal packet's word is its fields, and its row reads only the operands its command has. -/
theorem encodeOfDecodeIsThePacketUsed : Obligations.EncodeOfDecodeIsThePacketUsed := by
  intro p i h
  obtain ⟨hrsv, hopc⟩ := decodeOpc_of_decode h
  rw [encode_of_decodeOpc hopc, ← word_eq_of_rsvField hrsv, pvField_eq]
  simp only [decide_eq_true_eq]

theorem encode_cw_of_decode {p : Packet} {i : Instr} (h : decode p = .ok i) : (encode i).cw = p.cw := by
  rw [encodeOfDecodeIsThePacketUsed p i h]

/-! ### The table -/

/-- The row of every command's own mnemonic selects its word (R82). -/
theorem encodesItsRow (i : Instr) : Laws.EncodesItsRow.Statement i := by
  cases i with
  | init region cap => exact Laws.EncodesItsRow.init region cap
  | isready => exact Laws.EncodesItsRow.isready
  | detach => exact Laws.EncodesItsRow.detach
  | setntfy handle => exact Laws.EncodesItsRow.setntfy handle
  | free => exact Laws.EncodesItsRow.free
  | used => exact Laws.EncodesItsRow.used
  | write src len => exact Laws.EncodesItsRow.write src len
  | read dst len => exact Laws.EncodesItsRow.read dst len
  | peek dst len skip => exact Laws.EncodesItsRow.peek dst len skip
  | skip len => exact Laws.EncodesItsRow.skip len
  | advance len => exact Laws.EncodesItsRow.advance len
  | lraddr => exact Laws.EncodesItsRow.lraddr
  | lrlen => exact Laws.EncodesItsRow.lrlen
  | lwaddr => exact Laws.EncodesItsRow.lwaddr
  | lwlen => exact Laws.EncodesItsRow.lwlen
  | reset => exact Laws.EncodesItsRow.reset

/-- The two masks of the table: all bits, and all but `PV`. -/
theorem mask_cases : ∀ r ∈ opcodeTable, r.mask = 0xFFFFFFFF ∨ r.mask = 0xFFFFFEFF := by decide

/-- A word that a row selects is the row's pattern, with `PV` set or not where the row's mask leaves that open. -/
theorem word_of_selects {r : OpcodeRow} {cw : BitVec 32} (hr : r ∈ opcodeTable) (h : r.selects cw = true) :
    cw = r.pattern ∨ (r.mask = 0xFFFFFEFF ∧ cw = r.pattern ||| 0x100) := by
  have hsel : cw &&& r.mask = r.pattern := by simpa [OpcodeRow.selects] using h
  obtain hm | hm := mask_cases r hr
  · left
    rw [← hsel, hm]
    exact (BitVec.and_allOnes (w := 32)).symm
  · rw [← hsel, hm]
    have hsplit : cw = cw &&& 0xFFFFFEFF ||| cw &&& 0x100 := by
      rw [← BitVec.and_or_distrib_left]
      exact (BitVec.and_allOnes (w := 32)).symm
    have hbit : cw &&& 0x100 = 0 ∨ cw &&& 0x100 = 0x100 := by
      have htwo : (0x100 : BitVec 32) = BitVec.twoPow 32 8 := by decide
      rw [htwo, BitVec.and_twoPow]
      split <;> simp
    obtain h0 | h1 := hbit
    · left
      rw [h0] at hsplit
      simpa using hsplit
    · right
      rw [h1] at hsplit
      exact ⟨rfl, hsplit⟩

/-- A word that is an `OPC` and a `PV` alone is decoded by its row. -/
theorem decode_of_word {p : Packet} {opc : Nat} {pv : Bool} (hopc : opc < 256)
    (h : p.cw.toNat = opc + if pv then 256 else 0) : decode p = decodeOpc opc pv p := by
  have hfields : rsvField p.cw = 0 ∧ opcField p.cw = opc ∧ pvField p.cw = pv := by
    rw [rsvField_eq, opcField_eq, pvField_eq, h]
    cases pv <;> simp <;> omega
  obtain ⟨hrsv, hopc, hpv⟩ := hfields
  rw [decode, if_pos hrsv, hopc, hpv]

/-- A row's pattern is its opcode, and a row whose mask leaves `PV` open has its pattern's `PV` at 0. -/
theorem pattern_toNat : ∀ r ∈ opcodeTable, r.pattern.toNat < 256 ∧ (r.pattern ||| 0x100).toNat = r.pattern.toNat + 256 := by
  decide

/-- The rows that take a pointer are those of INIT, SETNTFY, WRITE, READ and PEEK (R82). -/
theorem pattern_of_mask : ∀ r ∈ opcodeTable, r.mask = 0xFFFFFEFF → r.pattern.toNat ∈ [1, 4, 7, 8, 9] := by decide

/-- A row that takes a pointer answers the same command with one as without. -/
theorem decodeOpc_of_pointer {opc : Nat} (h : opc ∈ [1, 4, 7, 8, 9]) {p : Packet} {i : Instr}
    (hi : decodeOpc opc false p = .ok i) : ∃ j, decodeOpc opc true p = .ok j ∧ j.mnemonic = i.mnemonic := by
  fin_cases h <;> cases hi <;> exact ⟨_, rfl, rfl⟩

/-- Each row answers a command of its name, on any operands. -/
theorem decodeOpc_of_row {r : OpcodeRow} (hr : r ∈ opcodeTable) (p : Packet) :
    (∃ i, decodeOpc r.pattern.toNat false p = .ok i ∧ i.mnemonic = r.mnemonic) ∧
    (r.mask = 0xFFFFFEFF → ∃ i, decodeOpc r.pattern.toNat true p = .ok i ∧ i.mnemonic = r.mnemonic) := by
  have hrow : ∃ i, decodeOpc r.pattern.toNat false p = .ok i ∧ i.mnemonic = r.mnemonic := by
    unfold opcodeTable at hr
    fin_cases hr <;> exact ⟨_, by rfl, by rfl⟩
  refine ⟨hrow, fun hmask => ?_⟩
  obtain ⟨i, hi, hname⟩ := hrow
  obtain ⟨j, hj, hsame⟩ := decodeOpc_of_pointer (pattern_of_mask r hr hmask) hi
  exact ⟨j, hj, hsame.trans hname⟩

/-- A row selects exactly the words of its own command. -/
theorem selects_iff_decodes {r : OpcodeRow} (hr : r ∈ opcodeTable) (p : Packet) :
    r.selects p.cw = true ↔ ∃ i, decode p = .ok i ∧ i.mnemonic = r.mnemonic := by
  constructor
  · intro h
    obtain ⟨hlt, hpv⟩ := pattern_toNat r hr
    obtain ⟨habsent, hpresent⟩ := decodeOpc_of_row hr p
    obtain hw | ⟨hm, hw⟩ := word_of_selects hr h
    · rwa [decode_of_word (pv := false) hlt (by rw [hw]; rfl)]
    · rw [decode_of_word (pv := true) hlt (by rw [hw, hpv]; rfl)]
      exact hpresent hm
  · rintro ⟨i, hd, hm⟩
    rw [← encode_cw_of_decode hd]
    exact encodesItsRow i r hr hm.symm

/-- The table has one row of each command's name. -/
theorem one_row_of_mnemonic (i : Instr) :
    ∃ row, opcodeTable.filter (fun r => decide (r.mnemonic = i.mnemonic)) = [row] ∧ row.mnemonic = i.mnemonic := by
  cases i <;> exact ⟨_, rfl, rfl⟩

/-- Settles O3: a word's rows are the rows of its command's name. -/
theorem wordSelectsItsRowOrIsIllegal : Obligations.WordSelectsItsRowOrIsIllegal := by
  intro p
  cases hd : decode p with
  | ok i =>
    obtain ⟨row, hrow, hname⟩ := one_row_of_mnemonic i
    refine .inl ⟨i, row, rfl, ?_, hname⟩
    rw [← hrow]
    apply List.filter_congr
    intro r hr
    rw [Bool.eq_iff_iff, selects_iff_decodes hr]
    simp [hd, eq_comm]
  | error e =>
    refine .inr ⟨⟨e, rfl⟩, List.filter_eq_nil_iff.mpr fun r hr => ?_⟩
    rw [selects_iff_decodes hr]
    simp [hd]

/-! ### The illegal words -/

/-- Why a row answers an error: no such row, or a pointer where the row takes none (R87). -/
theorem decodeOpc_error {opc : Nat} {pv : Bool} {p : Packet} (e : Illegal) :
    decodeOpc opc pv p = .error e ↔
      (e = .unknownOpcode ∧ (opc = 0 ∨ 16 < opc)) ∨
      (e = .pointerNotAllowed ∧ 1 ≤ opc ∧ opc ≤ 16 ∧ opc ∉ [1, 4, 7, 8, 9] ∧ pv = true) := by
  by_cases hrange : 1 ≤ opc ∧ opc ≤ 16
  · obtain ⟨hlo, hhi⟩ := hrange
    interval_cases opc <;> cases pv <;> simp [decodeOpc, noPointer, eq_comm]
  · have hunknown : decodeOpc opc pv p = .error .unknownOpcode := by
      unfold decodeOpc
      split
      case h_17 => rfl
      all_goals omega
    have hout : opc = 0 ∨ 16 < opc := by omega
    rw [hunknown, Except.error.injEq]
    constructor
    · rintro rfl
      exact .inl ⟨rfl, hout⟩
    · rintro (⟨rfl, _⟩ | ⟨_, hlegal⟩)
      · rfl
      · exact absurd ⟨hlegal.1, hlegal.2.1⟩ hrange

theorem decode_error_iff {p : Packet} {e : Illegal} :
    decode p = .error e ↔ (rsvField p.cw ≠ 0 ∧ e = .reservedBits) ∨
      (rsvField p.cw = 0 ∧ decodeOpc (opcField p.cw) (pvField p.cw) p = .error e) := by
  unfold decode
  split
  · simp [*]
  · simp [*, eq_comm (a := e)]

/-- Settles O4: the decoding algorithm's three tests in their order, each on its field of the word (R87). -/
theorem illegalWordsAreRejectedByName : Obligations.IllegalWordsAreRejectedByName := by
  intro p
  simp only [decode_error_iff, decodeOpc_error, rsvField_eq, opcField_eq, pvField_eq, decide_eq_true_eq]
  simp

/-- Settles O5: each packet is decoded by evaluating the algorithm on it. -/
theorem theSpecsPacketsDecode : Obligations.TheSpecsPacketsDecode := by
  unfold Obligations.TheSpecsPacketsDecode
  decide

end Sys2Proof

/-! Proofs of the statements about the arithmetic (spec/41_accounting.md section 1, spec/44_linear.md section 1). -/

namespace Sys2Proof.Machine

theorem usedSpace_eq_mod {w r N : Nat} (hw : w < N) (hr : r < N) : usedSpace w r N = (w + N - r) % N := by
  unfold usedSpace
  split_ifs with heq hlt
  · rw [heq, Nat.add_sub_cancel_left, Nat.mod_self]
  · rw [show w + N - r = w - r + N by omega, Nat.add_mod_right, Nat.mod_eq_of_lt (by omega)]
  · rw [Nat.mod_eq_of_lt (by omega)]
    omega

theorem usedSpace_eq_zero_iff {w r N : Nat} (hr : r < N) : usedSpace w r N = 0 ↔ w = r := by
  unfold usedSpace
  split_ifs <;> omega

/-- `adv` is addition modulo `N` (R136). -/
theorem adv_eq_mod {x k N : Nat} (hx : x < N) (hk : k ≤ N) : adv x k N = (x + k) % N := by
  unfold adv
  split_ifs with h
  · exact (Nat.mod_eq_of_lt h).symm
  · rw [Nat.mod_eq_sub_mod (by omega), Nat.mod_eq_of_lt (by omega)]

/-- Moving the write index forward fills the ring. -/
theorem usedSpace_adv_write {w r k N : Nat} (hw : w < N) (hr : r < N) (hk : k ≤ freeSpace w r N) :
    usedSpace (adv w k N) r N = usedSpace w r N + k := by
  revert hk
  unfold freeSpace usedSpace adv
  split_ifs <;> omega

/-- Moving the read index forward empties it. -/
theorem usedSpace_adv_read {w r k N : Nat} (hw : w < N) (hr : r < N) (hk : k ≤ usedSpace w r N) :
    usedSpace w (adv r k N) N = usedSpace w r N - k := by
  revert hk
  unfold usedSpace adv
  split_ifs <;> omega

/-- Conservation (R29). -/
theorem usedSpace_add_freeSpace {w r N : Nat} (hw : w < N) (hr : r < N) : usedSpace w r N + freeSpace w r N = N - 1 := by
  have := usedSpace_lt hw hr
  unfold freeSpace
  omega

/-- Settles O22: used space is a distance modulo `N`, from its three cases (R130). -/
theorem usedSpaceIsTheDistanceModuloN : Obligations.UsedSpaceIsTheDistanceModuloN := by
  intro w r N hw hr
  have hlt := usedSpace_lt hw hr
  refine ⟨usedSpace_eq_mod hw hr, by omega, usedSpace_eq_zero_iff hr, ?_⟩
  rw [← adv_eq_mod hw (by omega : 1 ≤ N)]
  unfold usedSpace adv
  split_ifs <;> omega

/-- Settles O23: free space is what used space leaves of `N − 1` (R131). -/
theorem usedAndFreeAddUpToUsableCapacity : Obligations.UsedAndFreeAddUpToUsableCapacity := by
  intro w r N hw hr
  refine ⟨usedSpace_add_freeSpace hw hr, fun h => ?_, fun h => ?_, fun h => ?_⟩ <;>
  · unfold freeSpace usedSpace
    split_ifs <;> omega

/-- Settles O24: the advance is addition modulo `N`, and an index that moves forward within its range moves the
occupancy by as much. -/
theorem wrappedAdvanceMovesTheOccupancy : Obligations.WrappedAdvanceMovesTheOccupancy := by
  intro w r k N hw hr
  refine ⟨fun hk => ⟨adv_eq_mod hw hk, adv_lt hw hk, fun h => ?_⟩, usedSpace_adv_write hw hr, usedSpace_adv_read hw hr⟩
  rw [adv_eq_mod hw hk, h, Nat.mod_self]

/-- Settles O25: the three cases of the linear lengths against those of used and free space (R170, R171). -/
theorem linearLengthsFitTheRuns : Obligations.LinearLengthsFitTheRuns := by
  intro w r N hw hr
  refine ⟨?_, ?_, ?_, ?_, ?_, ?_, ?_, ?_⟩ <;> simp only [linRead, linWrite, freeSpace, usedSpace, adv] <;> split_ifs <;> omega

end Sys2Proof.Machine

/-! Proofs of the statements about the turns (spec/10_state.md sections 4 to 6, spec/70_reset_and_hazards.md section
1). -/

namespace Sys2Proof.Machine

/-! ### The port whose turn it is -/

@[simp] theorem withCur_me (s : State) (p : Port) : State.me { s with cur := p } = s.port p := by cases p <;> rfl

@[simp] theorem withCur_opposite (s : State) (p : Port) : State.opposite { s with cur := p } = s.port p.other := by
  cases p <;> rfl

theorem withCur_atMu {s : State} {p : Port} {k : Nat} (h : (s.port p).phase = .run k) : State.atMu { s with cur := p } k := by
  simpa [State.atMu] using h

/-- Taking a turn off the schedule changes the schedule only. -/
@[simp] theorem tookTurn_fields (s : State) :
    s.tookTurn.widths = s.widths ∧ s.tookTurn.bound = s.bound ∧ s.tookTurn.base = s.base ∧ s.tookTurn.cap = s.cap ∧
    s.tookTurn.wpos = s.wpos ∧ s.tookTurn.rpos = s.rpos ∧ s.tookTurn.nen = s.nen ∧ s.tookTurn.nhnd = s.nhnd ∧
    s.tookTurn.mem = s.mem ∧ s.tookTurn.evq = s.evq ∧ s.tookTurn.portP = s.portP ∧ s.tookTurn.portC = s.portC :=
  ⟨rfl, rfl, rfl, rfl, rfl, rfl, rfl, rfl, rfl, rfl, rfl, rfl⟩

theorem port_of_cur {s : State} {p : Port} (h : s.cur = p) : s.port p = s.me := by rw [← h]; rfl

theorem port_other_of_cur {s : State} {p : Port} (h : s.cur = p) : s.port p.other = s.opposite := by rw [← h]; rfl

/-- The step of a port with a command in flight, as the micro-step of that command. -/
theorem step_of_running {s : State} {p : Port} {k : Nat} {i : Instr} (ht : s.turn = .run p)
    (hp : (s.port p).phase = .run k) (hd : decode (s.port p).packet = .ok i) :
    step s = exec i { s.tookTurn with cur := p } := by
  rw [step, ht]
  exact microStep_running (by simpa using hp) (by simpa using hd)

/-- Settles O6: the turn of a busy port is its command's micro-step. -/
theorem stepRunsTheDecodedCommand : Obligations.StepRunsTheDecodedCommand :=
  fun _ _ _ _ ht hp hd => step_of_running ht hp hd

/-- At the default widths `decodeTableWord` reads the placed packet. -/
theorem decode_of_decodeTableWord {nbits w : Nat} {i : Instr} (h : decodeTableWord nbits w = some i) :
    decode (packetOfNat .default (w % 2 ^ nbits)) = .ok i := by
  unfold decodeTableWord at h
  split at h
  · rename_i hd
    cases h
    exact hd
  · cases h

/-- Settles O7: the placed packet is latched on port `P`, whose turn is next. -/
theorem stepRunsThePlacedWord : Obligations.StepRunsThePlacedWord := by
  intro s nbits w i h
  have hd : decode (packetOfNat s.widths (w % 2 ^ nbits)) = .ok i := by
    obtain h | ⟨hws, h⟩ := h
    · exact h
    · rw [hws]
      exact decode_of_decodeTableWord h
  have hstep := step_of_running (s := s.withFetchWord nbits w) (p := .P) (k := 1) rfl rfl hd
  exact ⟨_, hstep, rfl, rfl, ⟨rfl, rfl, rfl⟩, ⟨rfl, rfl⟩, ⟨rfl, rfl⟩, rfl, rfl, rfl, rfl, rfl, ⟨rfl, rfl, rfl⟩, rfl⟩

/-- Settles O8: the one micro-step of an illegal word is the zero result (R85). -/
theorem illegalWordCompletesWithZero : Obligations.IllegalWordCompletesWithZero := by
  intro s p e hp hd
  have hexec : execIllegal { s with cur := p } = .next (State.completeZero { s with cur := p }) := by
    simp [execIllegal, mu_of_atMu (withCur_atMu hp)]
  have hplain : PlainStep { s with cur := p } (State.completeZero { s with cur := p }) := .zero rfl
  obtain ⟨hbinding, hhook, hindices, hmem, hevq, hopp, hops, hwidths, hcur, -, -⟩ := hplain.frame
  refine ⟨_, (microStep_illegal hp hd).trans hexec, zeroResult_completeZero _, hcur, hbinding, hhook, hindices, hmem, hevq,
    hwidths, ?_, ?_⟩
  · rw [port_other_of_cur hcur, hopp, withCur_opposite]
  · rw [port_of_cur hcur]
    simpa using hops

@[simp] theorem latch_fields (x : PortRegs) (p : Packet) :
    (x.latch p).packet = p ∧ (x.latch p).phase = .run 1 ∧ (x.latch p).tmp = x.tmp ∧ (x.latch p).r0 = x.r0 ∧
    (x.latch p).r1 = x.r1 ∧ (x.latch p).av = x.av := ⟨rfl, rfl, rfl, rfl, rfl, rfl⟩

/-- Settles O9: issue latches the packet on an idle port and leaves a busy one alone (R32). -/
theorem issueIsAcceptedByAnIdlePortOnly : Obligations.IssueIsAcceptedByAnIdlePortOnly := by
  intro s p packet ht
  have hstep : step s = .next (issue p packet s.tookTurn) := by rw [step, ht]; rfl
  refine ⟨_, hstep, ?_⟩
  obtain ⟨hidle, hissue⟩ | ⟨hbusy, hissue⟩ := issue_cases p packet s.tookTurn <;> rw [hissue] <;>
    rw [tookTurn_port] at *
  · simp [sameBinding, sameHook, sameIndices, sameResults, hidle]
  · simp [sameBinding, sameHook, sameIndices, sameResults, hbusy]

/-- Settles O10: the turn of an idle port is a turn taken and nothing more. -/
theorem idlePortHasNoMicroStep : Obligations.IdlePortHasNoMicroStep := by
  intro s p ht hp
  rw [step, ht]
  exact microStep_idle (by simpa using hp)

/-- Settles O11: the reset state keeps memory and the widths only (R220). -/
theorem hardwareResetAbandonsEverything : Obligations.HardwareResetAbandonsEverything := by
  intro s ht
  have hstep : step s = .next (hwReset s.tookTurn) := by rw [step, ht]; rfl
  exact ⟨_, hstep, rfl, rfl, rfl, rfl, rfl, rfl, rfl⟩

/-- Settles O12: the values R39 gives are the fields of the reset state. -/
theorem resetLeavesTheEngineNotReady : Obligations.ResetLeavesTheEngineNotReady :=
  ⟨rfl, rfl, fun _ => ⟨rfl, rfl, rfl, rfl, rfl, rfl⟩⟩

/-- Settles O13: an outside write is one store to memory, an outside read a turn taken. -/
theorem outsideAccessTouchesOneByte : Obligations.OutsideAccessTouchesOneByte := by
  intro s a v
  constructor
  · intro ht
    have hstep : step s = .next (outsideWrite a v s.tookTurn) := by rw [step, ht]; rfl
    exact ⟨_, hstep, load_store_same _ _ _, fun x hx => load_store_other _ _ hx, rfl⟩
  · intro ht
    rw [step, ht]
    rfl

end Sys2Proof.Machine

/-! Proofs of the lifecycle statements (spec/40_lifecycle.md) about INIT, DETACH, SETNTFY, and of RESET's (spec/45_reset_op.md). -/

namespace Sys2Proof.Machine

/-- The register writes of a successful INIT (R110). -/
@[simp] theorem bindRegion_fields (o : NotifyPolicy) (a c : Nat) (s : State) :
    (bindRegion o a c s).bound = true ∧ (bindRegion o a c s).base = a ∧ (bindRegion o a c s).cap = c ∧
    (bindRegion o a c s).wpos = 0 ∧ (bindRegion o a c s).rpos = 0 ∧ (bindRegion o a c s).widths = s.widths :=
  ⟨rfl, rfl, rfl, rfl, rfl, rfl⟩

theorem otherInFlight_eq_true {s : State} (h : 2 ≤ s.opposite.phase.mu) : otherInFlight s = true := by
  simpa [otherInFlight] using h

theorem otherInFlight_eq_false {s : State} (h : s.opposite.phase.mu ≤ 1) : otherInFlight s = false := by
  simp only [otherInFlight, decide_eq_false_iff_not]
  omega

/-! ### The micro-steps of the lifecycle commands and of RESET, case by case -/

section Lifecycle

variable {s : State} (h : s.atMu 1)
include h

theorem exec_init_of_failed {region : Option Nat} {cap : Nat} (hbad : region = none ∨ cap = 0) :
    exec (.init region cap) s = .next s.completeZero := by
  cases region <;> simp_all [exec, execInit, mu_of_atMu h, initStep]

theorem exec_init_of_wraps {a cap : Nat} (hc : cap ≠ 0) (hw : s.widths.memSize < a + cap) :
    exec (.init (some a) cap) s = .refused .regionWraps := by
  simp [exec, execInit, mu_of_atMu h, initStep, hc, hw]

theorem exec_init_of_busy {a cap : Nat} (hc : cap ≠ 0) (hw : a + cap ≤ s.widths.memSize)
    (ho : 2 ≤ s.opposite.phase.mu) : exec (.init (some a) cap) s = .refused .notQuiescent := by
  simp [exec, execInit, mu_of_atMu h, initStep, hc, Nat.not_lt.mpr hw, otherInFlight_eq_true ho]

theorem exec_init_of_quiescent {a cap : Nat} (hc : cap ≠ 0) (hw : a + cap ≤ s.widths.memSize)
    (ho : s.opposite.phase.mu ≤ 1) : exec (.init (some a) cap) s =
      .next ((bindRegion Config.initNotifyPolicy a cap s).complete (boolResult true) none) := by
  simp [exec, execInit, mu_of_atMu h, initStep, hc, Nat.not_lt.mpr hw, otherInFlight_eq_false ho]

theorem exec_detach_of_busy (hb : s.bound = true) (ho : 2 ≤ s.opposite.phase.mu) :
    exec .detach s = .refused .notQuiescent := by
  simp [exec, execDetach, mu_of_atMu h, hb, detachReady, otherInFlight_eq_true ho]

theorem exec_detach_of_quiescent (hb : s.bound = true) (ho : s.opposite.phase.mu ≤ 1) :
    exec .detach s = .next (State.completeZero { s with bound := false }) := by
  simp [exec, execDetach, mu_of_atMu h, hb, detachReady, otherInFlight_eq_false ho]

theorem exec_setntfy_of_ready (handle : Option Nat) (hb : s.bound = true) :
    exec (.setntfy handle) s = .next (setHook handle s).completeZero := by
  simp [exec, execSetntfy, mu_of_atMu h, hb]

end Lifecycle

theorem exec_reset_of_busy {s : State} (h : s.atMu 2) (ho : 2 ≤ s.opposite.phase.mu) :
    exec .reset s = .refused .notQuiescent := by
  simp [exec, execReset, mu_of_atMu h, zeroIndices, otherInFlight_eq_true ho]

theorem exec_reset_of_quiescent {s : State} (h : s.atMu 2) (ho : s.opposite.phase.mu ≤ 1) :
    exec .reset s = .next (State.goOn { s with wpos := 0, rpos := 0 } s.me.tmp) := by
  simp [exec, execReset, mu_of_atMu h, zeroIndices, otherInFlight_eq_false ho]

/-- What the zero result leaves alone. -/
theorem completeZero_frame (s : State) :
    sameBinding s s.completeZero ∧ sameHook s s.completeZero ∧ sameIndices s s.completeZero ∧
      s.completeZero.mem = s.mem ∧ s.completeZero.evq = s.evq ∧ sameSurroundings s s.completeZero :=
  PlainStep.frame (.zero rfl)

/-! ### The statements -/

/-- Settles O14: INIT's one micro-step past its checks is the register writes of R110 and the result 1. -/
theorem initBindsTheRegion : Obligations.InitBindsTheRegion := by
  intro s a cap h hc hw ho
  refine ⟨_, exec_init_of_quiescent h hc hw ho, by simp, by simp, by simp, by simp, by simp, complete_nen _ _ _, ?_⟩
  simp [countResult, boolResult, addrResult, avFlag, sameSurroundings, sameOperands]

/-- Settles O15: a failed INIT is the zero result (R110). -/
theorem failedInitChangesNothing : Obligations.FailedInitChangesNothing :=
  fun s _ _ h hbad => ⟨_, exec_init_of_failed h hbad, zeroResult_completeZero s, completeZero_frame s⟩

/-- Settles O16: the tests that refuse come before any register write. -/
theorem lifecycleStopsWhereTheSpecGivesNoMeaning : Obligations.LifecycleStopsWhereTheSpecGivesNoMeaning :=
  ⟨fun _ _ _ h hc hw => exec_init_of_wraps h hc hw, fun _ _ _ h hc hw ho => exec_init_of_busy h hc hw ho,
    fun _ h hb ho => exec_detach_of_busy h hb ho, fun _ h ho => exec_reset_of_busy h ho⟩

/-- Settles O18: DETACH clears `BOUND`, or on a buffer that is not ready is the zero result (R112, R114). -/
theorem detachClearsBoundOnly : Obligations.DetachClearsBoundOnly := by
  intro s h hor
  cases hb : s.bound with
  | false =>
    obtain ⟨⟨hbound, hbase, hcap⟩, hhook, hindices, hmem, hevq, hsurr⟩ := completeZero_frame s
    exact ⟨_, execDetach_of_notReady h hb, hbound.trans hb, hbase, hcap, hindices, hhook, zeroResult_completeZero s, hmem,
      hevq, hsurr⟩
  | true =>
    have ho : s.opposite.phase.mu ≤ 1 := hor.resolve_left (by simp [hb])
    refine ⟨_, exec_detach_of_quiescent h hb ho, ?_⟩
    simp [sameIndices, sameHook, zeroResult, sameSurroundings, sameOperands]

/-- Settles O19: SETNTFY sets the hook, or on a buffer that is not ready is the zero result (R113, R114). -/
theorem setntfyInstallsOrRemovesTheHook : Obligations.SetntfyInstallsOrRemovesTheHook := by
  intro s handle h
  cases hb : s.bound with
  | false =>
    obtain ⟨hbinding, hhook, hindices, hmem, hevq, hsurr⟩ := completeZero_frame s
    exact ⟨_, execSetntfy_of_notReady h handle hb, zeroResult_completeZero s, hbinding, hindices, hmem, hevq, hsurr,
      fun _ => hhook, by simp, by simp⟩
  | true =>
    refine ⟨_, exec_setntfy_of_ready h handle hb, ?_⟩
    cases handle <;>
      simp [zeroResult, sameBinding, sameIndices, sameSurroundings, sameOperands, setHook]

end Sys2Proof.Machine

/-! Proofs of the frame statements: what a micro-step leaves alone (spec/10_state.md sections 3, 4 and 6, spec/60_exceptions.md
section 2). -/

namespace Sys2Proof.Machine

/-! ### The copy loop and the emit micro-step, forward -/

theorem writeStep_of_five_le {s : State} (h : 5 ≤ s.mu) (o : SnapOrder) (src : Option Nat) (len : Nat) :
    writeStep o src len s = writeLoop src s := by
  unfold writeStep
  split
  iterate 5 omega
  rfl

theorem readStep_of_five_le {s : State} (h : 5 ≤ s.mu) (o : SnapOrder) (dst : Option Nat) (len : Nat) :
    readStep o dst len s = readLoop dst s := by
  unfold readStep
  split
  iterate 5 omega
  rfl

theorem peekStep_of_five_le {s : State} (h : 5 ≤ s.mu) (o : SnapOrder) (dst : Option Nat) (len skip : Nat) :
    peekStep o dst len skip s = peekLoop dst s := by
  unfold peekStep
  split
  iterate 5 omega
  rfl

/-- A micro-step that has a store address is the `MemWrite` to it. -/
theorem exec_of_storeAddr {i : Instr} {s : State} {a : Nat} (h : storeAddr i s = some a) : exec i s = copyWrite a s := by
  cases i with
  | write src len =>
    simp only [storeAddr, Option.ite_none_right_eq_some, Option.some.injEq] at h
    obtain ⟨⟨h5, hw⟩, rfl⟩ := h
    simp [exec, execWrite, writeStep_of_five_le h5, writeLoop, hw]
  | read dst len =>
    simp only [storeAddr, Option.ite_none_right_eq_some, Option.some.injEq] at h
    obtain ⟨⟨h5, hw⟩, rfl⟩ := h
    simp [exec, execRead, readStep_of_five_le h5, readLoop, hw]
  | peek dst len skip =>
    simp only [storeAddr, Option.ite_none_right_eq_some, Option.some.injEq] at h
    obtain ⟨⟨h5, hw⟩, rfl⟩ := h
    simp [exec, execPeek, peekStep_of_five_le h5, peekLoop, hw]
  | _ => cases h

/-- A micro-step that has a load address is the `MemRead` from it. -/
theorem exec_of_loadAddr {i : Instr} {s : State} {a : Nat} (h : loadAddr i s = some a) : exec i s = copyRead a s := by
  cases i with
  | write src len =>
    simp only [loadAddr, Option.ite_none_right_eq_some, Option.some.injEq] at h
    obtain ⟨⟨h5, hr⟩, rfl⟩ := h
    simp [exec, execWrite, writeStep_of_five_le h5, writeLoop, hr]
  | read dst len =>
    simp only [loadAddr, Option.ite_none_right_eq_some, Option.some.injEq] at h
    obtain ⟨⟨h5, hr⟩, rfl⟩ := h
    simp [exec, execRead, readStep_of_five_le h5, readLoop, hr]
  | peek dst len skip =>
    simp only [loadAddr, Option.ite_none_right_eq_some, Option.some.injEq] at h
    obtain ⟨⟨h5, hr⟩, rfl⟩ := h
    simp [exec, execPeek, peekStep_of_five_le h5, peekLoop, hr]
  | _ => cases h

/-- A micro-step that `EmitsAt` names is the emit micro-step of that record. -/
theorem exec_of_emitsAt {i : Instr} {s : State} {k : EventKind} {c : Nat} (h : EmitsAt i s k c) :
    exec i s = .next (emitStep k c s) := by
  obtain ⟨⟨src, len, rfl⟩, hi, hmu, rfl, rfl⟩ | ⟨⟨len, rfl⟩, hmu, rfl, rfl⟩ | ⟨⟨dst, len, rfl⟩, hi, hmu, rfl, rfl⟩ |
    ⟨⟨len, rfl⟩, hmu, rfl, rfl⟩ | ⟨rfl, hmu, rfl, rfl⟩ := h <;> have hmu := mu_of_atMu hmu
  · have hstage : s.copyStage = .post 1 := copyStage_of_post hi (by omega)
    simp [exec, execWrite, writeStep_of_five_le (by omega : 5 ≤ s.mu), writeLoop, hstage]
  · simp [exec, execAdvance, indexMove, hmu]
  · have hstage : s.copyStage = .post 1 := copyStage_of_post hi (by omega)
    simp [exec, execRead, readStep_of_five_le (by omega : 5 ≤ s.mu), readLoop, hstage]
  · simp [exec, execSkip, indexMove, hmu]
  · simp [exec, execReset, hmu]

/-! ### What every micro-step leaves alone -/

theorem SharedStep.surroundings {i : Instr} {s t : State} (d : SharedStep i s t) : sameSurroundings s t := by
  cases d <;> subst t <;> simp [sameSurroundings, sameOperands, storeWpos, storeRpos, emitStep]

/-- The other port, the operands of the stepping one, and the model's own fields are nobody's to write. -/
theorem exec_surroundings {i : Instr} {s t : State} (h : exec i s = .next t) : sameSurroundings s t := by
  obtain plain | shared := exec_next h
  · obtain ⟨-, -, -, -, -, hsurr⟩ := plain.frame
    exact hsurr
  · exact shared.surroundings

theorem SharedStep.results {i : Instr} {s t : State} (d : SharedStep i s t) (hrun : t.me.phase ≠ .idle) :
    sameResults s.me t.me := by
  revert hrun
  cases d <;> subst t <;> simp [sameResults, storeWpos, storeRpos, emitStep]

/-- Settles O43: of the micro-steps' effects on the port only a `Complete` writes results. -/
theorem onlyCompleteWritesResults : Obligations.OnlyCompleteWritesResults := by
  intro i s t h
  obtain ⟨hopp, hops, -⟩ := exec_surroundings h
  refine ⟨hops, hopp, fun hrun => ?_⟩
  obtain plain | shared := exec_next h
  · obtain ⟨-, -, hresults⟩ := plain.port_only
    exact hresults hrun
  · exact shared.results hrun

/-- Settles O40: no query has a micro-step that writes shared state. -/
theorem queriesChangeTheirPortOnly : Obligations.QueriesChangeTheirPortOnly := by
  intro i s t hi h
  obtain plain | shared := exec_next h
  · obtain ⟨honly, hops, -⟩ := plain.port_only
    exact ⟨honly, hops⟩
  · exfalso
    simp only [List.mem_cons, List.not_mem_nil, or_false] at hi
    cases shared <;> rcases hi with rfl | rfl | rfl | rfl | rfl | rfl | rfl <;> simp_all

end Sys2Proof.Machine

namespace Sys2Proof.Machine

/-! ### Who writes which shared register -/

section Writers

variable {i : Instr} {s t : State}

theorem exec_binding_cases (h : exec i s = .next t) :
    sameBinding s t ∨ (∃ region cap, i = .init region cap) ∨ i = .detach := by
  obtain plain | shared := exec_next h
  · exact .inl plain.frame.1
  · cases shared with
    | init a cap hi => exact .inr (.inl ⟨_, _, hi⟩)
    | detach hi => exact .inr (.inr hi)
    | _ => left; subst t; simp [sameBinding, storeWpos, storeRpos, emitStep]

theorem exec_hook_cases (h : exec i s = .next t) :
    sameHook s t ∨ (∃ region cap, i = .init region cap) ∨ ∃ handle, i = .setntfy handle := by
  obtain plain | shared := exec_next h
  · obtain ⟨-, hhook, -⟩ := plain.frame
    exact .inl hhook
  · cases shared with
    | init a cap hi => exact .inr (.inl ⟨_, _, hi⟩)
    | hook x hi => exact .inr (.inr ⟨x, hi⟩)
    | _ => left; subst t; simp [sameHook, storeWpos, storeRpos, emitStep]

theorem exec_wpos_cases (h : exec i s = .next t) :
    t.wpos = s.wpos ∨ (((∃ p len, i = .write p len) ∨ (∃ len, i = .advance len)) ∧ t = storeWpos s) ∨
      (((∃ p cap, i = .init p cap) ∨ i = .reset) ∧ t.wpos = 0) := by
  obtain plain | shared := exec_next h
  · obtain ⟨-, -, ⟨hwpos, -⟩, -⟩ := plain.frame
    exact .inl hwpos
  · cases shared with
    | wpos hi ht => exact .inr (.inl ⟨hi, ht⟩)
    | zero hi => exact .inr (.inr ⟨.inr hi, by subst t; simp⟩)
    | init a cap hi => exact .inr (.inr ⟨.inl ⟨_, _, hi⟩, by subst t; simp⟩)
    | _ => left; subst t; simp [storeRpos, emitStep]

theorem exec_rpos_cases (h : exec i s = .next t) :
    t.rpos = s.rpos ∨ (((∃ p len, i = .read p len) ∨ (∃ len, i = .skip len)) ∧ t = storeRpos s) ∨
      (((∃ p cap, i = .init p cap) ∨ i = .reset) ∧ t.rpos = 0) := by
  obtain plain | shared := exec_next h
  · obtain ⟨-, -, ⟨-, hrpos⟩, -⟩ := plain.frame
    exact .inl hrpos
  · cases shared with
    | rpos hi ht => exact .inr (.inl ⟨hi, ht⟩)
    | zero hi => exact .inr (.inr ⟨.inr hi, by subst t; simp⟩)
    | init a cap hi => exact .inr (.inr ⟨.inl ⟨_, _, hi⟩, by subst t; simp⟩)
    | _ => left; subst t; simp [storeWpos, emitStep]

theorem exec_mem_cases (h : exec i s = .next t) :
    t.mem = s.mem ∨ ∃ a, storeAddr i s = some a ∧ t.mem = s.mem.store a s.me.tmp.t := by
  obtain plain | shared := exec_next h
  · obtain ⟨-, -, -, hmem, -⟩ := plain.frame
    exact .inl hmem
  · cases shared with
    | store a u ha => exact .inr ⟨a, ha, by subst t; simp⟩
    | _ => left; subst t; simp [storeWpos, storeRpos, emitStep]

/-- What the emit micro-step appends, if the hook is installed. -/
theorem emitStep_evq (k : EventKind) (c : Nat) (s : State) : (emitStep k c s).evq = s.evq ++ eventsOf s k c := by
  simp only [emitStep, goOn_evq, emit_evq]
  rfl

/-- The complete list of what emits what (R195). -/
theorem exec_evq_cases (h : exec i s = .next t) :
    t.evq = s.evq ∨ ∃ k c, t.evq = s.evq ++ eventsOf s k c ∧
      (((∃ p len, i = .write p len) ∨ (∃ len, i = .advance len)) ∧ k = .write ∧ c = s.me.tmp.n ∨
       ((∃ p len, i = .read p len) ∨ (∃ len, i = .skip len)) ∧ k = .read ∧ c = s.me.tmp.n ∨
       i = .reset ∧ k = .reset ∧ c = 0) := by
  obtain plain | shared := exec_next h
  · obtain ⟨-, -, -, -, hevq, -⟩ := plain.frame
    exact .inl hevq
  · cases shared with
    | emitWrite hi ht => exact .inr ⟨_, _, ht ▸ emitStep_evq _ _ s, .inl ⟨hi, rfl, rfl⟩⟩
    | emitRead hi ht => exact .inr ⟨_, _, ht ▸ emitStep_evq _ _ s, .inr (.inl ⟨hi, rfl, rfl⟩)⟩
    | emitReset hi hk ht => exact .inr ⟨_, _, ht ▸ emitStep_evq _ _ s, .inr (.inr ⟨hi, rfl, rfl⟩)⟩
    | _ => left; subst t; simp [storeWpos, storeRpos]

end Writers

/-! ### The next micro-step -/

theorem phase_succ_mu {p : Phase} (h : p.mu ≠ 0) : p.succ.mu = p.mu + 1 := by
  cases p with
  | idle => exact absurd rfl h
  | run k => rfl

theorem goOn_mu {s : State} {u : Temps} (h : s.mu ≠ 0) : (s.goOn u).mu = s.mu + 1 := by
  simpa [State.mu] using phase_succ_mu h

theorem emitStep_mu {k : EventKind} {c : Nat} {s : State} (h : s.mu ≠ 0) : (emitStep k c s).mu = s.mu + 1 := by
  simpa [emitStep, State.mu] using phase_succ_mu h

@[simp] theorem complete_mu (s : State) (r : Nat) (a : Option Nat) : (s.complete r a).mu = 0 := by
  simp [State.mu, Phase.mu]

@[simp] theorem completeZero_mu (s : State) : s.completeZero.mu = 0 := by simp [State.mu, Phase.mu]

/-! ### Frames by command -/

/-- Settles O42: each command is missing from the writers of what it leaves alone. -/
theorem nonCopyFrame : Obligations.NonCopyFrame := by
  intro s t p w
  have hmem {i : Instr} (h : exec i s = .next t) (hi : storeAddr i s = none) : t.mem = s.mem := by
    obtain hmem | ⟨a, ha, -⟩ := exec_mem_cases h
    · exact hmem
    · simp [hi] at ha
  refine ⟨fun h => ?_, fun h => ?_, fun h => ?_, fun h => ?_, fun h => ?_, fun h => ?_⟩ <;>
    have hm := hmem h rfl <;> have hsurr := exec_surroundings h
  · obtain ⟨-, ⟨-, rfl⟩ | ⟨a, -, -, -, -, rfl⟩⟩ := execInit_next h
    · exact ⟨hm, by simp, by simp, hsurr⟩
    · exact ⟨hm, by simp, by simp, hsurr⟩
  · obtain ⟨-, ⟨-, rfl⟩ | ⟨-, -, rfl⟩⟩ := execDetach_next h <;>
      exact ⟨hm, by simp, by simp [sameHook], by simp [sameIndices], by simp, by simp, hsurr⟩
  · have hbinding : sameBinding s t := by simpa using exec_binding_cases h
    obtain ⟨-, ⟨-, rfl⟩ | ⟨-, rfl⟩⟩ := execSetntfy_next h <;>
      exact ⟨hm, by simp, hbinding, by simp [sameIndices], hsurr⟩
  · exact ⟨hm, by simpa using exec_binding_cases h, by simpa using exec_hook_cases h, by simpa using exec_wpos_cases h, hsurr⟩
  · exact ⟨hm, by simpa using exec_binding_cases h, by simpa using exec_hook_cases h, by simpa using exec_rpos_cases h, hsurr⟩
  · exact ⟨hm, by simpa using exec_binding_cases h, by simpa using exec_hook_cases h, hsurr⟩

/-! ### The byte in flight -/

@[simp] theorem firstLoad_t (o : SnapOrder) (s : State) : (firstLoad o s).t = s.me.tmp.t := by cases o <;> rfl

@[simp] theorem secondLoad_t (o : SnapOrder) (s : State) : (secondLoad o s).t = s.me.tmp.t := by cases o <;> rfl

theorem readyCheck_t (s : State) : (readyCheck s).me.tmp.t = s.me.tmp.t := by
  obtain ⟨-, h⟩ | ⟨-, h⟩ := readyCheck_cases s <;> simp [h]

theorem argCheck_t (ok : Bool) (s : State) : (argCheck ok s).me.tmp.t = s.me.tmp.t := by
  obtain ⟨-, h⟩ | ⟨-, h⟩ := argCheck_cases ok s <;> simp [h]

theorem planCopy_t {buf : Option Nat} {n start : Nat} {u : Temps} {s t : State} (h : planCopy buf n start u s = .next t) :
    t.me.tmp.t = u.t := by
  obtain ⟨-, rfl⟩ | ⟨-, -, -, rfl⟩ := planCopy_next h <;> simp

/-- Outside its `MemRead`s a copy command leaves `t` alone. -/
theorem exec_copy_t {i : Instr} {s t : State}
    (hi : (∃ p len, i = .write p len) ∨ (∃ p len, i = .read p len) ∨ (∃ p len skip, i = .peek p len skip))
    (h : exec i s = .next t) (hload : loadAddr i s = none) : t.me.tmp.t = s.me.tmp.t := by
  obtain ⟨p, len, rfl⟩ | ⟨p, len, rfl⟩ | ⟨p, len, skip, rfl⟩ := hi
  · obtain ⟨-, rfl⟩ | ⟨-, rfl⟩ | ⟨-, rfl⟩ | ⟨-, h⟩ | ⟨h5, h⟩ := writeStep_next h
    · exact readyCheck_t s
    · exact argCheck_t _ s
    · simp
    · simp [planCopy_t h]
    · obtain ⟨hr, -⟩ | ⟨-, h⟩ | ⟨-, rfl⟩ | ⟨-, rfl⟩ | ⟨-, rfl⟩ := writeLoop_next h
      · simp [loadAddr, h5, hr] at hload
      · simp [(copyWrite_next h).2]
      all_goals simp [storeWpos, emitStep]
  · obtain ⟨-, rfl⟩ | ⟨-, rfl⟩ | ⟨-, rfl⟩ | ⟨-, h⟩ | ⟨h5, h⟩ := readStep_next h
    · exact readyCheck_t s
    · exact argCheck_t _ s
    · simp
    · simp [planCopy_t h]
    · obtain ⟨hr, -⟩ | ⟨-, h⟩ | ⟨-, rfl⟩ | ⟨-, rfl⟩ | ⟨-, rfl⟩ := readLoop_next h
      · simp [loadAddr, h5, hr] at hload
      · simp [(copyWrite_next h).2]
      all_goals simp [storeRpos, emitStep]
  · obtain ⟨-, rfl⟩ | ⟨-, rfl⟩ | ⟨-, rfl⟩ | ⟨-, h⟩ | ⟨h5, h⟩ := peekStep_next h
    · exact readyCheck_t s
    · exact argCheck_t _ s
    · simp
    · obtain ⟨-, rfl⟩ | ⟨-, h⟩ := planPeek_next h
      · simp
      · simp [planCopy_t h]
    · obtain ⟨hr, -⟩ | ⟨-, h⟩ | ⟨-, rfl⟩ := peekLoop_next h
      · simp [loadAddr, h5, hr] at hload
      · simp [(copyWrite_next h).2]
      · simp

/-- Settles O41: the writers of each register, and the one store and the one load of a copy's micro-step. -/
theorem copyFrame : Obligations.CopyFrame := by
  intro i s t hi h
  have hbinding : sameBinding s t := by
    rcases hi with ⟨p, len, rfl⟩ | ⟨p, len, rfl⟩ | ⟨p, len, skip, rfl⟩ <;> simpa using exec_binding_cases h
  have hhook : sameHook s t := by
    rcases hi with ⟨p, len, rfl⟩ | ⟨p, len, rfl⟩ | ⟨p, len, skip, rfl⟩ <;> simpa using exec_hook_cases h
  have hwpos : (∃ p len, i = .write p len) ∨ t.wpos = s.wpos := by
    rcases hi with ⟨p, len, rfl⟩ | ⟨p, len, rfl⟩ | ⟨p, len, skip, rfl⟩
    · exact .inl ⟨p, len, rfl⟩
    all_goals exact .inr (by simpa using exec_wpos_cases h)
  have hrpos : (∃ p len, i = .read p len) ∨ t.rpos = s.rpos := by
    rcases hi with ⟨p, len, rfl⟩ | ⟨p, len, rfl⟩ | ⟨p, len, skip, rfl⟩
    · exact .inr (by simpa using exec_rpos_cases h)
    · exact .inl ⟨p, len, rfl⟩
    · exact .inr (by simpa using exec_rpos_cases h)
  refine ⟨hbinding, hhook, exec_surroundings h, hwpos, hrpos, fun a ha => ?_, fun hnone x => ?_, fun a ha => ?_,
    exec_copy_t hi h⟩
  · rw [exec_of_storeAddr ha] at h
    obtain ⟨-, rfl⟩ := copyWrite_next h
    exact ⟨by simp, fun x hx => by simp [load_store_other _ _ hx]⟩
  · obtain hmem | ⟨a, ha, -⟩ := exec_mem_cases h
    · rw [hmem]
    · simp [hnone] at ha
  · rw [exec_of_loadAddr ha] at h
    obtain ⟨-, rfl⟩ := copyRead_next h
    simp

/-- Settles O44: the writers of the two indices; a successful INIT and RESET's second micro-step write both. -/
theorem eachIndexHasItsWriters : Obligations.EachIndexHasItsWriters := by
  refine ⟨fun i s t h hne => ?_, fun i s t h hne => ?_, fun i s t h hi => ?_⟩
  · obtain hw | ⟨hwrite | hadvance, -⟩ | hzero := exec_wpos_cases h
    · exact absurd hw hne
    · exact .inl hwrite
    · exact .inr (.inl hadvance)
    · exact .inr (.inr hzero)
  · obtain hr | ⟨hread | hskip, -⟩ | hzero := exec_rpos_cases h
    · exact absurd hr hne
    · exact .inl hread
    · exact .inr (.inl hskip)
    · exact .inr (.inr hzero)
  · obtain ⟨⟨p, cap, rfl⟩, hr0⟩ | ⟨rfl, hmu⟩ := hi
    · obtain ⟨-, ⟨-, rfl⟩ | ⟨a, -, -, -, -, rfl⟩⟩ := execInit_next h
      · simp at hr0
      · simp
    · have hmu := mu_of_atMu hmu
      obtain ⟨hk, rfl⟩ | ⟨-, -, rfl⟩ | ⟨hk, rfl⟩ | ⟨-, rfl⟩ := execReset_next h
      · obtain ⟨-, e⟩ | ⟨-, e⟩ := readyCheck_cases s <;> rw [e] at hmu
        · simp at hmu
        · rw [goOn_mu (by omega)] at hmu
          omega
      · simp
      · rw [emitStep_mu (by omega)] at hmu
        omega
      · simp at hmu

/-- Settles O47: the writers of the event history. -/
theorem eventsComeFromTheirSources : Obligations.EventsComeFromTheirSources := by
  intro i s t h hne
  obtain hevq | ⟨k, c, hevq, hsource⟩ := exec_evq_cases h
  · exact absurd hevq hne
  · cases hnen : s.nen with
    | false => simp [eventsOf, hnen] at hevq; exact absurd hevq hne
    | true => exact ⟨rfl, k, c, by simpa [eventsOf, hnen] using hevq, hsource⟩

end Sys2Proof.Machine

namespace Sys2Proof.Machine

/-! ### What a step of the machine can be -/

/-- The state in which port `p` takes the micro-step of its turn. -/
def State.onTurn (s : State) (p : Port) : State := { s.tookTurn with cur := p }

/-- Port `p` is the stepping port there; the rest is as before. -/
@[simp] theorem onTurn_fields (s : State) (p : Port) :
    (s.onTurn p).cur = p ∧ (s.onTurn p).widths = s.widths ∧ (s.onTurn p).bound = s.bound ∧ (s.onTurn p).base = s.base ∧
    (s.onTurn p).cap = s.cap ∧ (s.onTurn p).wpos = s.wpos ∧ (s.onTurn p).rpos = s.rpos ∧ (s.onTurn p).nen = s.nen ∧
    (s.onTurn p).nhnd = s.nhnd ∧ (s.onTurn p).mem = s.mem ∧ (s.onTurn p).evq = s.evq ∧
    (s.onTurn p).portP = s.portP ∧ (s.onTurn p).portC = s.portC :=
  ⟨rfl, rfl, rfl, rfl, rfl, rfl, rfl, rfl, rfl, rfl, rfl, rfl, rfl⟩

@[simp] theorem onTurn_me (s : State) (p : Port) : (s.onTurn p).me = s.port p := by cases p <;> rfl

@[simp] theorem onTurn_opposite (s : State) (p : Port) : (s.onTurn p).opposite = s.port p.other := by cases p <;> rfl

/-- The shared registers, and the event history, are as they were. -/
def sameShared (s t : State) : Prop := sameBinding s t ∧ sameHook s t ∧ sameIndices s t ∧ t.evq = s.evq

/-- Everything one step can be. -/
inductive StepCase (s t : State) : Prop where
  /-- an agent's issue -/
  | issue (p : Port) (q : Packet) (hturn : s.turn = .issue p q) (h : t = issue p q s.tookTurn)
  /-- a micro-step of the command in flight on a port -/
  | exec (p : Port) (k : Nat) (i : Instr) (hturn : s.turn = .run p) (hp : (s.port p).phase = .run k)
      (hd : decode (s.port p).packet = .ok i) (h : exec i (s.onTurn p) = .next t)
  /-- the one micro-step of an illegal word -/
  | illegal (p : Port) (e : Illegal) (hturn : s.turn = .run p) (hp : (s.port p).phase = .run 1)
      (hd : decode (s.port p).packet = .error e) (h : t = (s.onTurn p).completeZero)
  /-- the turn of an idle port -/
  | idle (p : Port) (hturn : s.turn = .run p) (hp : (s.port p).phase = .idle) (h : t = s.tookTurn)
  /-- an outside agent's write -/
  | outsideWrite (a : Nat) (v : Byte) (hturn : s.turn = .outsideWrite a v) (h : t = outsideWrite a v s.tookTurn)
  /-- an outside agent's read -/
  | outsideRead (a : Nat) (hturn : s.turn = .outsideRead a) (h : t = s.tookTurn)
  /-- the hardware reset input -/
  | hwReset (hturn : s.turn = .hwReset) (h : t = hwReset s.tookTurn)

theorem stepCase_of_step {s t : State} (h : step s = .next t) : StepCase s t := by
  obtain ⟨p, q, hturn, h⟩ | ⟨p, hturn, h⟩ | ⟨a, v, hturn, h⟩ | ⟨a, hturn, h⟩ | ⟨hturn, h⟩ := step_next h
  · exact .issue p q hturn h
  · obtain ⟨hp, e⟩ | ⟨k, i, hp, hd, e⟩ | ⟨k, e', hp, hd, e⟩ := microStep_cases p s.tookTurn <;> rw [e] at h <;>
      simp only [tookTurn_port] at *
    · exact .idle p hturn hp (Host.Outcome.next.inj h).symm
    · exact .exec p k i hturn hp hd h
    · obtain ⟨hk, h⟩ := execIllegal_next h
      have hat : (s.onTurn p).atMu 1 := atMu_of_mu hk (by decide)
      have hp1 : (s.port p).phase = .run 1 := by simpa [State.atMu] using hat
      exact .illegal p e' hturn hp1 hd h
  · exact .outsideWrite a v hturn h
  · exact .outsideRead a hturn h
  · exact .hwReset hturn h

/-- Only a command's micro-step and the hardware reset change a shared register or the event history. -/
theorem StepCase.shared_cases {s t : State} (d : StepCase s t) :
    sameShared s t ∨
    (∃ p k i, s.turn = .run p ∧ (s.port p).phase = .run k ∧ decode (s.port p).packet = .ok i ∧
      Machine.exec i (s.onTurn p) = .next t) ∨
    (s.turn = .hwReset ∧ t = Machine.hwReset s.tookTurn) := by
  cases d with
  | issue p q hturn h =>
    left
    obtain ⟨-, e⟩ | ⟨-, e⟩ := issue_cases p q s.tookTurn <;> rw [h, e] <;>
      simp [sameShared, sameBinding, sameHook, sameIndices]
  | exec p k i hturn hp hd h => exact .inr (.inl ⟨p, k, i, hturn, hp, hd, h⟩)
  | illegal p e hturn hp hd h => left; subst t; simp [sameShared, sameBinding, sameHook, sameIndices]
  | idle p hturn hp h => left; subst t; simp [sameShared, sameBinding, sameHook, sameIndices]
  | outsideWrite a v hturn h =>
    left; subst t; simp [sameShared, sameBinding, sameHook, sameIndices, Machine.outsideWrite]
  | outsideRead a hturn h => left; subst t; simp [sameShared, sameBinding, sameHook, sameIndices]
  | hwReset hturn h => exact .inr (.inr ⟨hturn, h⟩)

/-- A micro-step is the stepping port's. -/
theorem exec_onTurn_ports {i : Instr} {s t : State} {p : Port} (h : exec i (s.onTurn p) = .next t) :
    t.port p = t.me ∧ t.port p.other = s.port p.other := by
  obtain ⟨hopp, -, -, hcur, -⟩ := exec_surroundings h
  have hcur : t.cur = p := hcur
  exact ⟨port_of_cur hcur, by rw [port_other_of_cur hcur, hopp, onTurn_opposite]⟩

theorem runs_of_phase {s : State} {p : Port} {k : Nat} {i : Instr} (hp : (s.port p).phase = .run k)
    (hd : decode (s.port p).packet = .ok i) : s.runs p i := ⟨by simp [hp], hd⟩

/-! ### The lifecycle (spec/10_state.md section 6) -/

/-- What INIT's answer says. -/
theorem exec_init_answer {s t : State} {region : Option Nat} {cap : Nat} (h : exec (.init region cap) s = .next t) :
    (t.me.r0 = 0 ∧ t = s.completeZero) ∨
    (t.me.r0 = 1 ∧ ∃ a, region = some a ∧ cap ≠ 0 ∧
      t = (bindRegion Config.initNotifyPolicy a cap s).complete (boolResult true) none) := by
  obtain ⟨-, ⟨-, rfl⟩ | ⟨a, hr, hc, -, -, rfl⟩⟩ := execInit_next h
  · exact .inl ⟨by simp, rfl⟩
  · exact .inr ⟨by simp [boolResult], a, hr, hc, rfl⟩

theorem exec_detach_effect {s t : State} (h : exec .detach s = .next t) :
    t.bound = false ∧ t.base = s.base ∧ t.cap = s.cap ∧ sameIndices s t := by
  obtain ⟨-, ⟨hb, rfl⟩ | ⟨-, -, rfl⟩⟩ := execDetach_next h
  · exact ⟨by simpa using hb, by simp, by simp, by simp [sameIndices]⟩
  · exact ⟨by simp, by simp, by simp, by simp [sameIndices]⟩

/-- The one micro-step a port has while the buffer is not ready: INIT's, or the zero result of any other packet (R114,
R111, R85). -/
theorem step_of_notReady {s t : State} {p : Port} (h : step s = .next t) (hb : s.bound = false) (hturn : s.turn = .run p)
    (hp : (s.port p).phase = .run 1) (hinit : ∀ r cap, ¬ s.runs p (.init r cap)) :
    t = (s.onTurn p).completeZero := by
  cases stepCase_of_step h with
  | exec q k i hturn' hq hd hx =>
    obtain rfl : q = p := by rw [hturn] at hturn'; exact (Turn.run.inj hturn').symm
    have hat : (s.onTurn q).atMu 1 := by simpa [State.atMu] using hp
    have hnotInit : ∀ r cap, i ≠ .init r cap := fun r cap e => hinit r cap (runs_of_phase hp (e ▸ hd))
    by_cases hready : i = .isready
    · subst hready
      rw [exec, execIsready_of_atMu_one hat] at hx
      cases hx
      simp [hb, boolResult, State.completeZero]
    · rw [exec_of_notReady hat hb hready hnotInit] at hx
      exact (Host.Outcome.next.inj hx).symm
  | illegal q e hturn' hq hd ht =>
    obtain rfl : q = p := by rw [hturn] at hturn'; exact (Turn.run.inj hturn').symm
    exact ht
  | idle q hturn' hq ht =>
    obtain rfl : q = p := by rw [hturn] at hturn'; exact (Turn.run.inj hturn').symm
    rw [hp] at hq
    cases hq
  | issue _ _ hturn' | outsideWrite _ _ hturn' | outsideRead _ hturn' | hwReset hturn' => rw [hturn] at hturn'; cases hturn'

/-- Settles O45: `BOUND` is set by INIT alone and cleared by DETACH and the hardware reset alone. -/
theorem lifecycleIsTwoStates : Obligations.LifecycleIsTwoStates := by
  refine ⟨fun s t h hs ht => ?_, fun s t h hs ht => ?_, fun s t p h hb hturn hp hinit => ?_, fun s t region cap h => ?_,
    fun s t => exec_detach_effect, fun s t h hturn => ?_⟩
  · obtain ⟨⟨hbound, -⟩, -⟩ | ⟨p, k, i, hturn, hp, hd, hx⟩ | ⟨hturn, rfl⟩ := (stepCase_of_step h).shared_cases
    · rw [hbound, hs] at ht
      cases ht
    · obtain ⟨region, cap, rfl⟩ := init_of_exec_sets_bound hx hs ht
      obtain ⟨hme, -⟩ := exec_onTurn_ports hx
      obtain ⟨-, rfl⟩ | ⟨hr0, a, rfl, hc, rfl⟩ := exec_init_answer hx
      · simp [hs] at ht
      · exact ⟨p, a, cap, hturn, runs_of_phase hp hd, hc, by rw [hme]; exact hr0, by simp, by simp, by simp, by simp⟩
    · cases ht
  · obtain ⟨⟨hbound, -⟩, -⟩ | ⟨p, k, i, hturn, hp, hd, hx⟩ | ⟨hturn, rfl⟩ := (stepCase_of_step h).shared_cases
    · rw [hbound, hs] at ht
      cases ht
    · obtain ⟨hbound, -⟩ | ⟨region, cap, rfl⟩ | rfl := exec_binding_cases hx
      · rw [hbound] at ht
        exact absurd ht (by simp [hs])
      · obtain ⟨-, rfl⟩ | ⟨-, a, -, -, rfl⟩ := exec_init_answer hx <;> simp [hs] at ht
      · obtain ⟨-, hbase, hcap, hindices⟩ := exec_detach_effect hx
        exact .inr ⟨p, hturn, runs_of_phase hp hd, hbase, hcap, hindices⟩
    · exact .inl hturn
  · obtain rfl := step_of_notReady h hb hturn hp hinit
    have hport : (s.onTurn p).completeZero.port p = (s.onTurn p).completeZero.me := port_of_cur (by simp)
    simp [hport, sameBinding, sameHook, sameIndices]
  · obtain ⟨hr0, rfl⟩ | ⟨hr0, a, rfl, -, rfl⟩ := exec_init_answer h
    · simp [sameBinding, sameIndices]
    · simp [boolResult]
  · have hstep : step s = .next (hwReset s.tookTurn) := by rw [step, hturn]; rfl
    rw [hstep] at h
    cases h
    rfl

/-! ### The event enable (spec/60_exceptions.md section 2) -/

/-- The events of a step, but for the hardware reset: one `Emit` at most. -/
theorem step_evq_cases {s t : State} (h : step s = .next t) (hturn : s.turn ≠ .hwReset) :
    t.evq = s.evq ∨ ∃ (p : Port) (k : EventKind) (c : Nat), t.evq = s.evq ++ eventsOf (s.onTurn p) k c := by
  obtain ⟨-, -, -, hevq⟩ | ⟨p, k, i, -, -, -, hx⟩ | ⟨hreset, -⟩ := (stepCase_of_step h).shared_cases
  · exact .inl hevq
  · obtain hevq | ⟨k, c, hevq, -⟩ := exec_evq_cases hx
    · exact .inl hevq
    · exact .inr ⟨p, k, c, hevq⟩
  · exact absurd hreset hturn

/-- Settles O46: the writers of `NEN`, and that every record goes through the one `Emit`. -/
theorem oneEnableForAllEvents : Obligations.OneEnableForAllEvents := by
  refine ⟨fun s t h hne => ?_, fun s t r cap h hr0 hpolicy => ?_, fun s t h hturn hnen => ?_,
    fun i s k c hemit hnen => ?_, fun s t h hturn => ?_⟩
  · obtain ⟨-, ⟨hnen, -⟩, -⟩ | ⟨p, k, i, hturn, hp, hd, hx⟩ | ⟨hturn, -⟩ := (stepCase_of_step h).shared_cases
    · exact absurd hnen hne
    · obtain ⟨hme, -⟩ := exec_onTurn_ports hx
      obtain ⟨hnen, -⟩ | ⟨r, cap, rfl⟩ | ⟨handle, rfl⟩ := exec_hook_cases hx
      · exact absurd hnen hne
      · obtain ⟨-, ht⟩ | ⟨hr0, a, -, -, ht⟩ := exec_init_answer hx
        · exact absurd (by simp [ht]) hne
        · cases hpolicy : Config.initNotifyPolicy with
          | keep => exact absurd (by simp [ht, bindRegion, hpolicy]) hne
          | clear =>
            have hr0 : (t.port p).r0 = 1 := by rw [hme]; exact hr0
            exact .inr (.inr ⟨p, r, cap, hturn, runs_of_phase hp hd, hr0, by simp [ht, bindRegion, hpolicy], rfl⟩)
      · obtain ⟨-, ⟨-, rfl⟩ | ⟨-, rfl⟩⟩ := execSetntfy_next hx
        · simp at hne
        · exact .inr (.inl ⟨p, handle, hturn, runs_of_phase hp hd, by cases handle <;> simp [setHook]⟩)
    · exact .inl hturn
  · obtain ⟨h0, -⟩ | ⟨-, a, -, -, rfl⟩ := exec_init_answer h
    · rw [h0] at hr0
      cases hr0
    · simp [bindRegion, hpolicy]
  · obtain hevq | ⟨p, k, c, hevq⟩ := step_evq_cases h hturn
    · exact hevq
    · simpa [eventsOf, hnen] using hevq
  · refine ⟨_, exec_of_emitsAt hemit, ?_⟩
    simp [emitStep_evq, eventsOf, hnen]
  · obtain hevq | ⟨p, k, c, hevq⟩ := step_evq_cases h hturn
    · exact ⟨[], by simpa using hevq, by simp⟩
    · exact ⟨_, hevq, by unfold eventsOf; split <;> simp⟩

end Sys2Proof.Machine

/-! Proof of the statement that the two ports are identical (spec/10_state.md section 4): each operation commutes with
exchanging the ports, so each command does. -/

namespace Sys2Proof.Machine

/-! ### The exchanged state -/

@[simp] theorem swapPorts_fields (s : State) :
    s.swapPorts.widths = s.widths ∧ s.swapPorts.bound = s.bound ∧ s.swapPorts.base = s.base ∧ s.swapPorts.cap = s.cap ∧
    s.swapPorts.wpos = s.wpos ∧ s.swapPorts.rpos = s.rpos ∧ s.swapPorts.nen = s.nen ∧ s.swapPorts.nhnd = s.nhnd ∧
    s.swapPorts.mem = s.mem ∧ s.swapPorts.cur = s.cur.other :=
  ⟨rfl, rfl, rfl, rfl, rfl, rfl, rfl, rfl, rfl, rfl⟩

@[simp] theorem swapPorts_me (s : State) : s.swapPorts.me = s.me := by
  unfold State.me
  rw [show s.swapPorts.cur = s.cur.other from rfl]
  cases s.cur <;> rfl

@[simp] theorem swapPorts_opposite (s : State) : s.swapPorts.opposite = s.opposite := by
  unfold State.opposite
  rw [show s.swapPorts.cur = s.cur.other from rfl]
  cases s.cur <;> rfl

@[simp] theorem swapPorts_mu (s : State) : s.swapPorts.mu = s.mu := by simp [State.mu]

@[simp] theorem swapPorts_copyStage (s : State) : s.swapPorts.copyStage = s.copyStage := by simp [State.copyStage]

@[simp] theorem swapPorts_regionAddr (s : State) (start : Nat) : s.swapPorts.regionAddr start = s.regionAddr start := by
  simp [State.regionAddr]

@[simp] theorem swapPorts_callerAddr (s : State) (buf : Option Nat) : s.swapPorts.callerAddr buf = s.callerAddr buf := by
  simp [State.callerAddr]

@[simp] theorem otherInFlight_swapPorts (s : State) : otherInFlight s.swapPorts = otherInFlight s := by
  simp [otherInFlight]

@[simp] theorem firstLoad_swapPorts (o : SnapOrder) (s : State) : firstLoad o s.swapPorts = firstLoad o s := by
  cases o <;> simp [firstLoad]

@[simp] theorem secondLoad_swapPorts (o : SnapOrder) (s : State) : secondLoad o s.swapPorts = secondLoad o s := by
  cases o <;> simp [secondLoad]

/-! ### The operations commute with the exchange -/

theorem setMe_swapPorts (s : State) (x : PortRegs) : s.swapPorts.setMe x = (s.setMe x).swapPorts := by
  unfold State.setMe
  rw [show s.swapPorts.cur = s.cur.other from rfl]
  cases s.cur <;> rfl

@[simp] theorem goOn_swapPorts (s : State) (u : Temps) : s.swapPorts.goOn u = (s.goOn u).swapPorts := by
  simp [State.goOn, setMe_swapPorts]

@[simp] theorem complete_swapPorts (s : State) (r : Nat) (a : Option Nat) :
    s.swapPorts.complete r a = (s.complete r a).swapPorts := by
  simp [State.complete, setMe_swapPorts]

@[simp] theorem completeZero_swapPorts (s : State) : s.swapPorts.completeZero = s.completeZero.swapPorts :=
  complete_swapPorts s 0 none

@[simp] theorem readyCheck_swapPorts (s : State) : readyCheck s.swapPorts = (readyCheck s).swapPorts := by
  unfold readyCheck
  simp only [swapPorts_fields, swapPorts_me, completeZero_swapPorts, goOn_swapPorts]
  split <;> rfl

@[simp] theorem argCheck_swapPorts (ok : Bool) (s : State) : argCheck ok s.swapPorts = (argCheck ok s).swapPorts := by
  cases ok <;> simp [argCheck]

@[simp] theorem emitStep_swapPorts (k : EventKind) (c : Nat) (s : State) :
    emitStep k c s.swapPorts = (emitStep k c s).swapPorts := by
  have hemit : s.swapPorts.emit k c = (s.emit k c).swapPorts := by
    unfold State.emit
    cases hnen : s.nen <;> simp [State.swapPorts, hnen]
  simp [emitStep, hemit]

@[simp] theorem storeWpos_swapPorts (s : State) : storeWpos s.swapPorts = (storeWpos s).swapPorts := by
  have h := goOn_swapPorts { s with wpos := adv s.me.tmp.sw s.me.tmp.n s.me.tmp.cap } s.me.tmp
  simp only [storeWpos, swapPorts_me]
  exact h

@[simp] theorem storeRpos_swapPorts (s : State) : storeRpos s.swapPorts = (storeRpos s).swapPorts := by
  have h := goOn_swapPorts { s with rpos := adv s.me.tmp.sr s.me.tmp.n s.me.tmp.cap } s.me.tmp
  simp only [storeRpos, swapPorts_me]
  exact h

@[simp] theorem planCount_swapPorts (len : Nat) (avail : Temps → Nat) (u : Temps) (s : State) :
    planCount len avail u s.swapPorts = (planCount len avail u s).swapPorts := by
  unfold planCount
  split <;> simp [setMe_swapPorts]

@[simp] theorem planCopy_swapPorts (buf : Option Nat) (n start : Nat) (u : Temps) (s : State) :
    planCopy buf n start u s.swapPorts = swapResult (planCopy buf n start u s) := by
  unfold planCopy
  simp only [swapPorts_fields, swapPorts_me, setMe_swapPorts, completeZero_swapPorts, goOn_swapPorts]
  split_ifs <;> rfl

@[simp] theorem planPeek_swapPorts (dst : Option Nat) (len skip : Nat) (u : Temps) (s : State) :
    planPeek dst len skip u s.swapPorts = swapResult (planPeek dst len skip u s) := by
  unfold planPeek
  simp only [swapPorts_me, setMe_swapPorts, completeZero_swapPorts, planCopy_swapPorts]
  split_ifs <;> rfl

@[simp] theorem copyRead_swapPorts (a : Nat) (s : State) : copyRead a s.swapPorts = swapResult (copyRead a s) := by
  unfold copyRead
  simp only [swapPorts_fields, swapPorts_me, goOn_swapPorts]
  split_ifs <;> rfl

@[simp] theorem copyWrite_swapPorts (a : Nat) (s : State) : copyWrite a s.swapPorts = swapResult (copyWrite a s) := by
  have h := goOn_swapPorts { s with mem := s.mem.store a s.me.tmp.t } { s.me.tmp with i := s.me.tmp.i + 1 }
  unfold copyWrite
  simp only [swapPorts_fields, swapPorts_me]
  split_ifs
  · exact congrArg Host.Outcome.next h
  · rfl

/-! ### The commands -/

theorem snapshotQuery_swapPorts (o : SnapOrder) (f : Temps → Nat) (s : State) :
    snapshotQuery o f s.swapPorts = swapResult (snapshotQuery o f s) := by
  unfold snapshotQuery
  simp only [swapPorts_mu]
  split <;> simp [swapResult]

theorem addressQuery_swapPorts {load : State → Temps} (hload : ∀ s, load s.swapPorts = load s) (ix : Temps → Nat)
    (s : State) : addressQuery load ix s.swapPorts = swapResult (addressQuery load ix s) := by
  unfold addressQuery
  simp only [swapPorts_mu, hload]
  split <;> simp [swapResult]

theorem indexMove_swapPorts {store : State → State} (hstore : ∀ s, store s.swapPorts = (store s).swapPorts) (o : SnapOrder)
    (len : Nat) (avail : Temps → Nat) (k : EventKind) (s : State) :
    indexMove o len avail store k s.swapPorts = swapResult (indexMove o len avail store k s) := by
  unfold indexMove
  simp only [swapPorts_mu, hstore]
  split <;> simp [swapResult]

theorem writeStep_swapPorts (o : SnapOrder) (src : Option Nat) (len : Nat) (s : State) :
    writeStep o src len s.swapPorts = swapResult (writeStep o src len s) := by
  have hloop : writeLoop src s.swapPorts = swapResult (writeLoop src s) := by
    unfold writeLoop
    simp only [swapPorts_copyStage]
    split <;> simp [swapResult]
  unfold writeStep
  simp only [swapPorts_mu, hloop]
  split <;> simp [swapResult]

theorem readStep_swapPorts (o : SnapOrder) (dst : Option Nat) (len : Nat) (s : State) :
    readStep o dst len s.swapPorts = swapResult (readStep o dst len s) := by
  have hloop : readLoop dst s.swapPorts = swapResult (readLoop dst s) := by
    unfold readLoop
    simp only [swapPorts_copyStage]
    split <;> simp [swapResult]
  unfold readStep
  simp only [swapPorts_mu, hloop]
  split <;> simp [swapResult]

theorem peekStep_swapPorts (o : SnapOrder) (dst : Option Nat) (len skip : Nat) (s : State) :
    peekStep o dst len skip s.swapPorts = swapResult (peekStep o dst len skip s) := by
  have hloop : peekLoop dst s.swapPorts = swapResult (peekLoop dst s) := by
    unfold peekLoop
    simp only [swapPorts_copyStage]
    split <;> simp [swapResult]
  unfold peekStep
  simp only [swapPorts_mu, hloop]
  split <;> simp [swapResult]

theorem execInit_swapPorts (region : Option Nat) (cap : Nat) (s : State) :
    execInit region cap s.swapPorts = swapResult (execInit region cap s) := by
  have hbind (a : Nat) := complete_swapPorts (bindRegion Config.initNotifyPolicy a cap s) (boolResult true) none
  have hinit : initStep Config.initNotifyPolicy region cap s.swapPorts =
      swapResult (initStep Config.initNotifyPolicy region cap s) := by
    unfold initStep
    cases region with
    | none => simp [swapResult]
    | some a =>
      simp only [swapPorts_fields, otherInFlight_swapPorts, completeZero_swapPorts]
      split_ifs
      · rfl
      · rfl
      · rfl
      · exact congrArg Host.Outcome.next (hbind a)
  unfold execInit
  simp only [swapPorts_mu, hinit]
  split <;> simp [swapResult]

theorem execDetach_swapPorts (s : State) : execDetach s.swapPorts = swapResult (execDetach s) := by
  have hclear := completeZero_swapPorts { s with bound := false }
  unfold execDetach detachReady
  simp only [swapPorts_mu, swapPorts_fields, otherInFlight_swapPorts, completeZero_swapPorts]
  split
  · split_ifs
    · rfl
    · exact congrArg Host.Outcome.next hclear
    · rfl
  · rfl

theorem execSetntfy_swapPorts (handle : Option Nat) (s : State) :
    execSetntfy handle s.swapPorts = swapResult (execSetntfy handle s) := by
  have hhook := completeZero_swapPorts (setHook handle s)
  have hset : setHook handle s.swapPorts = (setHook handle s).swapPorts := by cases handle <;> rfl
  unfold execSetntfy
  simp only [swapPorts_mu, swapPorts_fields, hset]
  split
  · split_ifs <;> simp [swapResult]
  · rfl

theorem execReset_swapPorts (s : State) : execReset s.swapPorts = swapResult (execReset s) := by
  have hzero := goOn_swapPorts { s with wpos := 0, rpos := 0 } s.me.tmp
  unfold execReset zeroIndices
  simp only [swapPorts_mu, swapPorts_me, otherInFlight_swapPorts, readyCheck_swapPorts, emitStep_swapPorts,
    completeZero_swapPorts]
  split
  · rfl
  · split_ifs
    · rfl
    · exact congrArg Host.Outcome.next hzero
  · rfl
  · rfl
  · rfl

/-- Settles O48: each command is made of operations that commute with the exchange. -/
theorem thePortsAreIdentical : Obligations.ThePortsAreIdentical := by
  intro i s
  cases i with
  | init region cap => exact execInit_swapPorts region cap s
  | isready =>
    unfold exec execIsready
    simp only [swapPorts_mu, swapPorts_fields, complete_swapPorts]
    split <;> rfl
  | detach => exact execDetach_swapPorts s
  | setntfy handle => exact execSetntfy_swapPorts handle s
  | free => exact snapshotQuery_swapPorts _ _ s
  | used => exact snapshotQuery_swapPorts _ _ s
  | write src len => exact writeStep_swapPorts _ src len s
  | read dst len => exact readStep_swapPorts _ dst len s
  | peek dst len skip => exact peekStep_swapPorts _ dst len skip s
  | skip len => exact indexMove_swapPorts storeRpos_swapPorts _ len _ _ s
  | advance len => exact indexMove_swapPorts storeWpos_swapPorts _ len _ _ s
  | lraddr => exact addressQuery_swapPorts (load := fun s => { s.me.tmp with sr := s.rpos }) (fun s => by simp) _ s
  | lrlen => exact snapshotQuery_swapPorts _ _ s
  | lwaddr => exact addressQuery_swapPorts (load := fun s => { s.me.tmp with sw := s.wpos }) (fun s => by simp) _ s
  | lwlen => exact snapshotQuery_swapPorts _ _ s
  | reset => exact execReset_swapPorts s

end Sys2Proof.Machine

/-! Proofs of the statements about runs of one command without interference (spec/42_copy.md, spec/43_index_only.md,
spec/45_reset_op.md), and about its checks (spec/40_lifecycle.md section 1, spec/44_linear.md). -/

namespace Sys2Proof.Machine

/-! ### The micro-steps by number -/

section ByNumber

variable {s : State}

theorem addressQuery_of_atMu_two (h : s.atMu 2) (load : State → Temps) (index : Temps → Nat) :
    addressQuery load index s = .next (s.goOn (load s)) := by
  simp [addressQuery, mu_of_atMu h]

theorem addressQuery_of_atMu_three (h : s.atMu 3) (load : State → Temps) (index : Temps → Nat) :
    addressQuery load index s = .next (s.complete 0 (some (s.me.tmp.b + index s.me.tmp))) := by
  simp [addressQuery, mu_of_atMu h]

/-- The five commands that check an argument, load a snapshot and clamp to it (R116). -/
def argsOk : Instr → Option Bool
  | .write src len => some (transferArgsOk src len)
  | .read dst len => some (transferArgsOk dst len)
  | .peek dst len _ => some (transferArgsOk dst len)
  | .skip len => some (countArgOk len)
  | .advance len => some (countArgOk len)
  | _ => none

theorem exec_of_atMu_two {i : Instr} {ok : Bool} (hi : argsOk i = some ok) (h : s.atMu 2) :
    exec i s = .next (argCheck ok s) := by
  have hmu := mu_of_atMu h
  cases i <;> cases hi <;> simp [exec, execWrite, execRead, execPeek, execSkip, execAdvance, writeStep, readStep, peekStep,
    indexMove, hmu]

theorem exec_of_atMu_three {i : Instr} {ok : Bool} (hi : argsOk i = some ok) (h : s.atMu 3) :
    exec i s = .next (s.goOn (firstLoad Config.snapOrder s)) := by
  have hmu := mu_of_atMu h
  cases i <;> cases hi <;> simp [exec, execWrite, execRead, execPeek, execSkip, execAdvance, writeStep, readStep, peekStep,
    indexMove, hmu]

theorem exec_write_of_atMu_four (h : s.atMu 4) (src : Option Nat) (len : Nat) : exec (.write src len) s =
    planCopy src (writeLength len (secondLoad Config.snapOrder s)) (secondLoad Config.snapOrder s).sw
      (secondLoad Config.snapOrder s) s := by
  simp [exec, execWrite, writeStep, mu_of_atMu h]

theorem exec_read_of_atMu_four (h : s.atMu 4) (dst : Option Nat) (len : Nat) : exec (.read dst len) s =
    planCopy dst (readLength len (secondLoad Config.snapOrder s)) (secondLoad Config.snapOrder s).sr
      (secondLoad Config.snapOrder s) s := by
  simp [exec, execRead, readStep, mu_of_atMu h]

theorem exec_peek_of_atMu_four (h : s.atMu 4) (dst : Option Nat) (len skip : Nat) : exec (.peek dst len skip) s =
    planPeek dst len skip (secondLoad Config.snapOrder s) s := by
  simp [exec, execPeek, peekStep, mu_of_atMu h]

theorem exec_skip_of_atMu_four (h : s.atMu 4) (len : Nat) : exec (.skip len) s =
    .next (planCount len Temps.usedSpace (secondLoad Config.snapOrder s) s) := by
  simp [exec, execSkip, indexMove, mu_of_atMu h]

theorem exec_advance_of_atMu_four (h : s.atMu 4) (len : Nat) : exec (.advance len) s =
    .next (planCount len Temps.freeSpace (secondLoad Config.snapOrder s) s) := by
  simp [exec, execAdvance, indexMove, mu_of_atMu h]

/-- The micro-steps of WRITE after its loop (R141). -/
theorem exec_write_of_post {m : Nat} (h5 : 5 ≤ s.mu) (hpost : s.copyStage = .post m) (src : Option Nat) (len : Nat) :
    (m = 0 → exec (.write src len) s = .next (storeWpos s)) ∧
    (m = 1 → exec (.write src len) s = .next (emitStep .write s.me.tmp.n s)) ∧
    (m = 2 → exec (.write src len) s = .next (s.complete s.me.tmp.n none)) := by
  refine ⟨?_, ?_, ?_⟩ <;> rintro rfl <;> simp [exec, execWrite, writeStep_of_five_le h5, writeLoop, hpost]

/-- The micro-steps of READ after its loop (R142). -/
theorem exec_read_of_post {m : Nat} (h5 : 5 ≤ s.mu) (hpost : s.copyStage = .post m) (dst : Option Nat) (len : Nat) :
    (m = 0 → exec (.read dst len) s = .next (storeRpos s)) ∧
    (m = 1 → exec (.read dst len) s = .next (emitStep .read s.me.tmp.n s)) ∧
    (m = 2 → exec (.read dst len) s = .next (s.complete s.me.tmp.n none)) := by
  refine ⟨?_, ?_, ?_⟩ <;> rintro rfl <;> simp [exec, execRead, readStep_of_five_le h5, readLoop, hpost]

/-- The micro-step of PEEK after its loop (R143). -/
theorem exec_peek_of_post (h5 : 5 ≤ s.mu) (hpost : s.copyStage = .post 0) (dst : Option Nat) (len skip : Nat) :
    exec (.peek dst len skip) s = .next (s.complete s.me.tmp.n none) := by
  simp [exec, execPeek, peekStep_of_five_le h5, peekLoop, hpost]

end ByNumber

/-! ### The checks -/

theorem argsOk_of_invalid {i : Instr}
    (h : (∃ p len, (i = .write p len ∨ i = .read p len ∨ ∃ skip, i = .peek p len skip) ∧ (p = none ∨ len = 0)) ∨
      (∃ len, (i = .skip len ∨ i = .advance len) ∧ len = 0)) : argsOk i = some false := by
  obtain ⟨p, len, rfl | rfl | ⟨skip, rfl⟩, rfl | rfl⟩ | ⟨len, rfl | rfl, rfl⟩ := h <;>
    simp [argsOk, transferArgsOk, countArgOk]

/-- Settles O21: the argument check ends a command whose argument it finds invalid, INIT makes its own (R115). -/
theorem invalidArgumentsChangeNothing : Obligations.InvalidArgumentsChangeNothing := by
  refine ⟨fun s i h => ?_, fun s h hb => ?_, fun s a len h hlen => ?_, fun len u hu => ?_⟩
  · suffices hzero : exec i s = .next s.completeZero from ⟨_, hzero, zeroResult_completeZero s, completeZero_frame s⟩
    obtain ⟨h, hbad⟩ | ⟨h, hbad⟩ | ⟨h, p, len, rfl, hbad⟩ := h
    · exact exec_of_atMu_two (argsOk_of_invalid (.inl hbad)) h
    · exact exec_of_atMu_two (argsOk_of_invalid (.inr hbad)) h
    · exact exec_init_of_failed h hbad
  · exact ⟨_, exec_setntfy_of_ready h none hb, by simp [setHook]⟩
  · have hok : argsOk (.peek (some a) len 0) = some true := by simp [argsOk, transferArgsOk, hlen]
    exact ⟨_, exec_of_atMu_two hok h, goOn_atMu h _⟩
  · exact ⟨by simp [peekStart, adv, hu], by simp [peekLength, readLength]⟩

/-- An address query answers the address of the index it loads (R172, R174), as the port's temporaries keep it. -/
theorem addressQuery_answers {i : Instr} {load : State → Temps} {ix : Temps → Nat} {index : State → Nat}
    (hexec : ∀ s, exec i s = addressQuery load ix s) (hload : ∀ s, (load s).b = s.me.tmp.b ∧ ix (load s) = index s)
    {s1 : State} (h1 : s1.atMu 1) (hb : s1.bound = true) :
    ∃ t1, exec i s1 = .next t1 ∧ t1 = s1.setMe t1.me ∧ t1.atMu 2 ∧ sameOperands s1.me t1.me ∧
      ∀ s2 : State, s2.me = t1.me → ∃ t2, exec i s2 = .next t2 ∧ t2 = s2.setMe t2.me ∧ t2.atMu 3 ∧
        sameOperands s1.me t2.me ∧
        ∀ s3 : State, s3.me = t2.me → ∃ t3, exec i s3 = .next t3 ∧ t3 = s3.setMe t3.me ∧
          sameOperands s1.me t3.me ∧ t3.me.phase = .idle ∧ t3.me.r0 = 0 ∧ t3.me.av = true ∧
          t3.me.r1 = s1.base + index s2 := by
  have hcheck : readyCheck s1 = s1.goOn { s1.me.tmp with b := s1.base, cap := s1.cap } := by simp [readyCheck, hb]
  have hμ1 : exec i s1 = .next (readyCheck s1) := (hexec s1).trans (addressQuery_of_atMu_one h1 _ _)
  rw [hcheck] at hμ1
  obtain ⟨p1, a1, o1⟩ := goOn_portOnly h1 (sameOperands_refl s1.me) { s1.me.tmp with b := s1.base, cap := s1.cap }
  refine ⟨_, hμ1, p1, a1, o1, fun s2 m2 => ?_⟩
  have h2 : s2.atMu 2 := atMu_of_me_eq m2 a1
  obtain ⟨p2, a2, o2⟩ := goOn_portOnly h2 (m2 ▸ o1) (load s2)
  refine ⟨_, (hexec s2).trans (addressQuery_of_atMu_two h2 _ _), p2, a2, o2, fun s3 m3 => ?_⟩
  have h3 : s3.atMu 3 := atMu_of_me_eq m3 a2
  obtain ⟨p3, o3⟩ := complete_portOnly (m3 ▸ o2) 0 (some (s3.me.tmp.b + ix s3.me.tmp))
  refine ⟨_, (hexec s3).trans (addressQuery_of_atMu_three h3 _ _), p3, o3, ?_⟩
  simp [addrResult, avFlag, m3, m2, hload]

/-- Settles O30: LRADDR and LWADDR are the address queries of their index. -/
theorem addressQueriesAnswerTheIndexAddress : Obligations.AddressQueriesAnswerTheIndexAddress := by
  rintro i index (⟨rfl, rfl⟩ | ⟨rfl, rfl⟩) s1 h1 hb
  · exact addressQuery_answers (load := fun s => { s.me.tmp with sr := s.rpos }) (ix := Temps.sr) (fun _ => rfl)
      (fun _ => ⟨rfl, rfl⟩) h1 hb
  · exact addressQuery_answers (load := fun s => { s.me.tmp with sw := s.wpos }) (ix := Temps.sw) (fun _ => rfl)
      (fun _ => ⟨rfl, rfl⟩) h1 hb

/-! ### The states of an undisturbed run -/

/-- The state with the stepping port at `μk` and its temporaries `u`. -/
def State.portAt (s : State) (k : Nat) (u : Temps) : State := s.setMe { s.me with phase := .run k, tmp := u }

/-- The state with these memory and indices: what a copy or an index move has changed so far. -/
def State.withRing (s : State) (m : Memory) (w r : Nat) : State := { s with mem := m, wpos := w, rpos := r }

section RunStates

variable (s : State) (k : Nat) (u : Temps) (m : Memory) (w r : Nat)

@[simp] theorem portAt_me : (s.portAt k u).me = { s.me with phase := .run k, tmp := u } := by simp [State.portAt]

@[simp] theorem portAt_atMu : (s.portAt k u).atMu k := by simp [State.atMu]

@[simp] theorem portAt_mu : (s.portAt k u).mu = k := mu_of_atMu (portAt_atMu s k u)

@[simp] theorem portAt_copyStage : (s.portAt k u).copyStage = copyStage k u.i u.n := by simp [State.copyStage]

@[simp] theorem portAt_fields :
    (s.portAt k u).bound = s.bound ∧ (s.portAt k u).base = s.base ∧ (s.portAt k u).cap = s.cap ∧
    (s.portAt k u).wpos = s.wpos ∧ (s.portAt k u).rpos = s.rpos ∧ (s.portAt k u).nen = s.nen ∧
    (s.portAt k u).nhnd = s.nhnd ∧ (s.portAt k u).mem = s.mem ∧ (s.portAt k u).evq = s.evq ∧
    (s.portAt k u).widths = s.widths ∧ (s.portAt k u).cur = s.cur ∧ (s.portAt k u).sched = s.sched ∧
    (s.portAt k u).tick = s.tick ∧ (s.portAt k u).opposite = s.opposite := by
  simp [State.portAt]

@[simp] theorem withRing_fields :
    (s.withRing m w r).bound = s.bound ∧ (s.withRing m w r).base = s.base ∧ (s.withRing m w r).cap = s.cap ∧
    (s.withRing m w r).wpos = w ∧ (s.withRing m w r).rpos = r ∧ (s.withRing m w r).nen = s.nen ∧
    (s.withRing m w r).nhnd = s.nhnd ∧ (s.withRing m w r).mem = m ∧ (s.withRing m w r).evq = s.evq ∧
    (s.withRing m w r).widths = s.widths ∧ (s.withRing m w r).cur = s.cur ∧ (s.withRing m w r).sched = s.sched ∧
    (s.withRing m w r).tick = s.tick ∧ (s.withRing m w r).me = s.me ∧ (s.withRing m w r).opposite = s.opposite :=
  ⟨rfl, rfl, rfl, rfl, rfl, rfl, rfl, rfl, rfl, rfl, rfl, rfl, rfl, rfl, rfl⟩

@[simp] theorem withRing_self : s.withRing s.mem s.wpos s.rpos = s := rfl

theorem goOn_eq_portAt {s : State} {k : Nat} (h : s.atMu k) (u : Temps) : s.goOn u = s.portAt (k + 1) u := by
  simp [State.goOn, State.portAt, succ_of_atMu h]

@[simp] theorem portAt_goOn (v : Temps) : (s.portAt k u).goOn v = s.portAt (k + 1) v := by
  rw [goOn_eq_portAt (portAt_atMu s k u)]
  simp [State.portAt]

/-- A shared update commutes with moving the port on. -/
theorem portAt_withRing_goOn (v : Temps) : ((s.portAt k u).withRing m w r).goOn v = (s.withRing m w r).portAt (k + 1) v := by
  have hcomm (p : Port) (x : PortRegs) : (s.setPort p x).withRing m w r = (s.withRing m w r).setPort p x := by
    cases p <;> rfl
  rw [show (s.portAt k u).withRing m w r = (s.withRing m w r).portAt k u from hcomm s.cur _, portAt_goOn]

theorem copyRead_portAt {a : Nat} (ha : a < s.widths.memSize) :
    copyRead a (s.portAt k u) = .next (s.portAt (k + 1) { u with t := s.mem.load a }) := by
  simp [copyRead, ha]

theorem copyWrite_portAt {a : Nat} (ha : a < s.widths.memSize) :
    copyWrite a (s.portAt k u) =
      .next ((s.withRing (s.mem.store a u.t) s.wpos s.rpos).portAt (k + 1) { u with i := u.i + 1 }) := by
  have h := portAt_withRing_goOn s k u (s.mem.store a u.t) s.wpos s.rpos { u with i := u.i + 1 }
  simp only [copyWrite, portAt_fields, ha, ↓reduceIte, portAt_me]
  rw [← h]
  simp [State.withRing]

theorem storeWpos_portAt :
    storeWpos (s.portAt k u) = (s.withRing s.mem (adv u.sw u.n u.cap) s.rpos).portAt (k + 1) u := by
  rw [← portAt_withRing_goOn s k u]
  simp [storeWpos, State.withRing]

theorem storeRpos_portAt :
    storeRpos (s.portAt k u) = (s.withRing s.mem s.wpos (adv u.sr u.n u.cap)).portAt (k + 1) u := by
  rw [← portAt_withRing_goOn s k u]
  simp [storeRpos, State.withRing]

theorem emitStep_portAt (e : EventKind) (c : Nat) : emitStep e c (s.portAt k u) = (s.emit e c).portAt (k + 1) u := by
  have hcomm (p : Port) (x : PortRegs) : (s.setPort p x).emit e c = (s.emit e c).setPort p x := by
    unfold State.emit
    simp only [setPort_nen]
    cases p <;> split <;> rfl
  have hemit : (s.portAt k u).emit e c = (s.emit e c).portAt k u := by
    simpa [State.portAt, State.setMe] using hcomm s.cur { s.me with phase := .run k, tmp := u }
  rw [emitStep, hemit, portAt_goOn, portAt_me]

end RunStates

/-- A run's first micro-step. -/
theorem execs_succ_next {i : Instr} {k : Nat} {s t : State} (h : execs i (k + 1) s = .next t) :
    ∃ s1, exec i s = .next s1 ∧ execs i k s1 = .next t := by
  unfold execs at h
  split at h
  · exact ⟨_, ‹_›, h⟩
  · cases h
  · cases h

/-- A run of `j + 1` micro-steps, the last one given. -/
theorem execs_snoc {i : Instr} {j : Nat} {s t : State} (h : execs i j s = .next t) : execs i (j + 1) s = exec i t := by
  rw [execs_add h]
  unfold execs
  cases exec i t <;> rfl

/-! ### From the ready check to the end of the snapshot -/

/-- The temporaries after a ready check that passes (R15). -/
def State.binding (s : State) : Temps := { s.me.tmp with b := s.base, cap := s.cap }

/-- What a command has latched and loaded after an undisturbed snapshot (R15, R16). -/
def State.snapshot (s : State) : Temps := { s.me.tmp with b := s.base, cap := s.cap, sw := s.wpos, sr := s.rpos }

/-- The three micro-steps up to the second load, on a ready buffer with valid arguments; in either order of the loads, the
second completes the snapshot of the indices. -/
theorem execs_three {i : Instr} (hi : argsOk i = some true) {s : State} (h : s.atMu 1) (hb : s.bound = true) :
    ∃ u, execs i 3 s = .next (s.portAt 4 u) ∧ secondLoad Config.snapOrder (s.portAt 4 u) = s.snapshot := by
  have hμ1 : exec i s = .next (s.portAt 2 s.binding) := by
    have hready : exec i s = .next (readyCheck s) := exec_of_atMu_one h (by rintro _ _ rfl; cases hi) (by rintro rfl; cases hi)
      (by rintro rfl; cases hi) (by rintro _ rfl; cases hi)
    rw [hready, readyCheck, if_pos hb, goOn_eq_portAt h]
    rfl
  have hμ2 : exec i (s.portAt 2 s.binding) = .next (s.portAt 3 s.binding) := by
    simpa [argCheck] using exec_of_atMu_two hi (portAt_atMu s 2 s.binding)
  have hμ3 : exec i (s.portAt 3 s.binding) = .next (s.portAt 4 (firstLoad Config.snapOrder (s.portAt 3 s.binding))) := by
    simpa using exec_of_atMu_three hi (portAt_atMu s 3 s.binding)
  refine ⟨firstLoad Config.snapOrder (s.portAt 3 s.binding), ?_, ?_⟩
  · rw [execs_succ hμ1, execs_succ hμ2, execs_succ hμ3]
    rfl
  · cases Config.snapOrder <;> simp [secondLoad, firstLoad, State.snapshot, State.binding]

/-! ### The copy loop -/

/-- Memory after the first `j` bytes of a copy, byte by byte in ascending order (R140). -/
def Memory.copyBytes (m : Memory) (src dst : Nat → Nat) : Nat → Memory
  | 0 => m
  | j + 1 => (Memory.copyBytes m src dst j).store (dst j) ((Memory.copyBytes m src dst j).load (src j))

/-- A byte that is no destination stays. -/
theorem load_copyBytes_of_ne {m : Memory} {src dst : Nat → Nat} {n x : Nat} (h : ∀ j, j < n → x ≠ dst j) :
    (m.copyBytes src dst n).load x = m.load x := by
  induction n with
  | zero => rfl
  | succ n ih =>
    rw [Memory.copyBytes, load_store_other _ _ (h n (by omega))]
    exact ih fun j hj => h j (by omega)

/-- Between disjoint ranges each destination holds its source's byte. -/
theorem load_copyBytes {m : Memory} {src dst : Nat → Nat} {n j : Nat} (hinj : ∀ i j, i < n → j < n → dst i = dst j → i = j)
    (hdisj : ∀ i j, i < n → j < n → src i ≠ dst j) (hj : j < n) : (m.copyBytes src dst n).load (dst j) = m.load (src j) := by
  induction n with
  | zero => omega
  | succ n ih =>
    rw [Memory.copyBytes]
    obtain rfl | hlt : j = n ∨ j < n := by omega
    · rw [load_store_same]
      exact load_copyBytes_of_ne fun k hk => hdisj _ _ (by omega) (by omega)
    · rw [load_store_other _ _ fun e => by have := hinj j n (by omega) (by omega) e; omega]
      exact ih (fun i j hi hj => hinj i j (by omega) (by omega)) (fun i j hi hj => hdisj i j (by omega) (by omega)) hlt

/-- Two micro-steps of a copy loop move one byte (R34, R140). -/
theorem execs_copyByte {i : Instr} {s : State} {u : Temps} {j a d : Nat} (hload : loadAddr i (s.portAt (5 + 2 * j) u) = some a)
    (hstore : ∀ v, storeAddr i (s.portAt (6 + 2 * j) { u with t := v }) = some d) (ha : a < s.widths.memSize)
    (hd : d < s.widths.memSize) :
    execs i 2 (s.portAt (5 + 2 * j) u) = .next ((s.withRing (s.mem.store d (s.mem.load a)) s.wpos s.rpos).portAt
      (5 + 2 * (j + 1)) { u with t := s.mem.load a, i := u.i + 1 }) := by
  have hrd := (exec_of_loadAddr hload).trans (copyRead_portAt s _ u ha)
  have hwr := (exec_of_storeAddr (hstore (s.mem.load a))).trans (copyWrite_portAt s _ { u with t := s.mem.load a } hd)
  rw [show 5 + 2 * j + 1 = 6 + 2 * j by omega] at hrd
  rw [execs_succ hrd, execs_succ hwr, show 6 + 2 * j + 1 = 5 + 2 * (j + 1) by omega]
  rfl

/-- The loop: `2j` micro-steps have copied the first `j` bytes, and nothing else of the shared state has changed. -/
theorem execs_copyLoop {i : Instr} {s : State} {u : Temps} {src dst : Nat → Nat} {n : Nat}
    (hload : ∀ m j v, j < n → loadAddr i ((s.withRing m s.wpos s.rpos).portAt (5 + 2 * j) { u with i := j, t := v })
      = some (src j))
    (hstore : ∀ m j v, j < n → storeAddr i ((s.withRing m s.wpos s.rpos).portAt (6 + 2 * j) { u with i := j, t := v })
      = some (dst j))
    (hsrc : ∀ j, j < n → src j < s.widths.memSize) (hdst : ∀ j, j < n → dst j < s.widths.memSize) (j : Nat)
    (hj : j ≤ n) :
    ∃ v, execs i (2 * j) (s.portAt 5 { u with i := 0 }) =
      .next ((s.withRing (s.mem.copyBytes src dst j) s.wpos s.rpos).portAt (5 + 2 * j) { u with i := j, t := v }) := by
  induction j with
  | zero => exact ⟨u.t, rfl⟩
  | succ j ih =>
    obtain ⟨v, ih⟩ := ih (by omega)
    refine ⟨(s.mem.copyBytes src dst j).load (src j), ?_⟩
    rw [Nat.mul_succ, execs_add ih]
    exact execs_copyByte (hload _ j v (by omega)) (fun v => hstore _ j v (by omega)) (hsrc j (by omega)) (hdst j (by omega))

end Sys2Proof.Machine

namespace Sys2Proof.Machine

/-! ### The plan of a copy -/

theorem planCopy_portAt {s : State} {u v : Temps} {buf : Option Nat} {n start : Nat} (hn : n ≠ 0)
    (hfits : ptrAddr buf + n ≤ s.widths.memSize) (hov : rangesOverlap (ptrAddr buf) n v.b v.cap = false) :
    planCopy buf n start v (s.portAt 4 u) =
      .next (s.portAt 5 { v with n := n, c1 := firstSegment start n v.cap, i := 0 }) := by
  simp [planCopy, hn, Nat.not_lt.mpr hfits, hov]

/-- The temporaries a copy of `n` bytes from region index `start` begins its loop with, but for the cursor. -/
def State.plan (s : State) (n start s0 : Nat) : Temps :=
  { s.snapshot with n := n, c1 := firstSegment start n s.cap, s0 := s0 }

section Loops

variable {s : State} {a n start j : Nat} {len skip : Nat} {m : Memory} {v : Byte}

/-- Byte `i` of the caller's buffer is no byte of the region. -/
theorem caller_ne_region {b N i x : Nat} (hov : rangesOverlap a n b N = false) (hi : i < n) (hx : x < N) :
    a + i ≠ b + x := by
  simp only [rangesOverlap, Bool.and_eq_false_iff, decide_eq_false_iff_not] at hov
  omega

/-- At its read of byte `j` a WRITE loads the caller's byte, at its write it stores to the ring's (R141). -/
theorem write_addrs (hs : s.wpos < s.cap) (hj : j < n) :
    loadAddr (.write (some a) len) ((s.withRing m s.wpos s.rpos).portAt (5 + 2 * j) { s.plan n s.wpos s.me.tmp.s0 with i := j, t := v })
      = some (a + j) ∧
    storeAddr (.write (some a) len) ((s.withRing m s.wpos s.rpos).portAt (6 + 2 * j) { s.plan n s.wpos s.me.tmp.s0 with i := j, t := v })
      = some (s.base + adv s.wpos j s.cap) := by
  simp [loadAddr, storeAddr, State.plan, State.snapshot, copyStage_of_rd hj, copyStage_of_wr hj, State.callerAddr, bufAddr,
    ptrAddr, State.regionAddr, segAddr_eq_adv hs hj]
  omega

/-- The same of READ, the other way round (R142). -/
theorem read_addrs (hs : s.rpos < s.cap) (hj : j < n) :
    loadAddr (.read (some a) len) ((s.withRing m s.wpos s.rpos).portAt (5 + 2 * j) { s.plan n s.rpos s.me.tmp.s0 with i := j, t := v })
      = some (s.base + adv s.rpos j s.cap) ∧
    storeAddr (.read (some a) len) ((s.withRing m s.wpos s.rpos).portAt (6 + 2 * j) { s.plan n s.rpos s.me.tmp.s0 with i := j, t := v })
      = some (a + j) := by
  simp [loadAddr, storeAddr, State.plan, State.snapshot, copyStage_of_rd hj, copyStage_of_wr hj, State.callerAddr, bufAddr,
    ptrAddr, State.regionAddr, segAddr_eq_adv hs hj]
  omega

/-- The same of PEEK, from its own start index (R143). -/
theorem peek_addrs (hs : start < s.cap) (hj : j < n) :
    loadAddr (.peek (some a) len skip) ((s.withRing m s.wpos s.rpos).portAt (5 + 2 * j) { s.plan n start start with i := j, t := v })
      = some (s.base + adv start j s.cap) ∧
    storeAddr (.peek (some a) len skip) ((s.withRing m s.wpos s.rpos).portAt (6 + 2 * j) { s.plan n start start with i := j, t := v })
      = some (a + j) := by
  simp [loadAddr, storeAddr, State.plan, State.snapshot, copyStage_of_rd hj, copyStage_of_wr hj, State.callerAddr, bufAddr,
    ptrAddr, State.regionAddr, segAddr_eq_adv hs hj]
  omega

end Loops

/-! ### The run up to the end of the loop -/

section Copies

variable {s : State} {a len n : Nat}

/-- The memory after WRITE's loop. -/
def State.memAfterWrite (s : State) (a n : Nat) : Memory :=
  s.mem.copyBytes (fun j => a + j) (fun j => s.base + adv s.wpos j s.cap) n

/-- The memory after a READ's loop, or a PEEK's, from region index `start`. -/
def State.memAfterRead (s : State) (a n start : Nat) : Memory :=
  s.mem.copyBytes (fun j => s.base + adv start j s.cap) (fun j => a + j) n

theorem region_lt {start j : Nat} (hu : Usable s) (hs : start < s.cap) (hj : j ≤ s.cap) :
    s.base + adv start j s.cap < s.widths.memSize := by
  obtain ⟨-, -, -, hregion⟩ := hu
  have := adv_lt hs hj
  omega

theorem execs_write_loop (h : s.atMu 1) (hu : Usable s) (hn : n = min len (freeSpace s.wpos s.rpos s.cap)) (h0 : 0 < n)
    (hfits : a + n ≤ s.widths.memSize) (hov : rangesOverlap a n s.base s.cap = false) :
    ∃ v, execs (.write (some a) len) (4 + 2 * n) s =
      .next ((s.withRing (s.memAfterWrite a n) s.wpos s.rpos).portAt (5 + 2 * n)
        { s.plan n s.wpos s.me.tmp.s0 with i := n, t := v }) := by
  have ⟨hb, hw, hr, _⟩ := hu
  have hlt := freeSpace_lt (r := s.rpos) hw
  have hok : argsOk (.write (some a) len) = some true := by
    simp [argsOk, transferArgsOk]
    omega
  obtain ⟨u, hthree, hload⟩ := execs_three hok h hb
  have hplan : execs (.write (some a) len) 4 s = .next (s.portAt 5 { s.plan n s.wpos s.me.tmp.s0 with i := 0 }) := by
    rw [execs_snoc hthree, exec_write_of_atMu_four (portAt_atMu s 4 u), hload, show writeLength len s.snapshot = n from hn.symm]
    exact planCopy_portAt (by omega) hfits hov
  obtain ⟨v, hloop⟩ := execs_copyLoop (i := .write (some a) len) (n := n) (s := s) (u := s.plan n s.wpos s.me.tmp.s0)
    (fun m j v hj => (write_addrs hw hj).1) (fun m j v hj => (write_addrs hw hj).2) (fun j hj => by omega)
    (fun j hj => region_lt hu hw (by omega)) n (by omega)
  exact ⟨v, by rw [execs_add hplan, hloop]; rfl⟩

theorem execs_read_loop (h : s.atMu 1) (hu : Usable s) (hn : n = min len (usedSpace s.wpos s.rpos s.cap)) (h0 : 0 < n)
    (hfits : a + n ≤ s.widths.memSize) (hov : rangesOverlap a n s.base s.cap = false) :
    ∃ v, execs (.read (some a) len) (4 + 2 * n) s =
      .next ((s.withRing (s.memAfterRead a n s.rpos) s.wpos s.rpos).portAt (5 + 2 * n)
        { s.plan n s.rpos s.me.tmp.s0 with i := n, t := v }) := by
  have ⟨hb, hw, hr, _⟩ := hu
  have hlt := usedSpace_lt hw hr
  have hok : argsOk (.read (some a) len) = some true := by
    simp [argsOk, transferArgsOk]
    omega
  obtain ⟨u, hthree, hload⟩ := execs_three hok h hb
  have hplan : execs (.read (some a) len) 4 s = .next (s.portAt 5 { s.plan n s.rpos s.me.tmp.s0 with i := 0 }) := by
    rw [execs_snoc hthree, exec_read_of_atMu_four (portAt_atMu s 4 u), hload, show readLength len s.snapshot = n from hn.symm]
    exact planCopy_portAt (by omega) hfits hov
  obtain ⟨v, hloop⟩ := execs_copyLoop (i := .read (some a) len) (n := n) (s := s) (u := s.plan n s.rpos s.me.tmp.s0)
    (fun m j v hj => (read_addrs hr hj).1) (fun m j v hj => (read_addrs hr hj).2)
    (fun j hj => region_lt hu hr (by omega)) (fun j hj => by omega) n (by omega)
  exact ⟨v, by rw [execs_add hplan, hloop]; rfl⟩

theorem execs_peek_loop {skip : Nat} (h : s.atMu 1) (hu : Usable s)
    (hn : n = min len (usedSpace s.wpos s.rpos s.cap - skip)) (h0 : 0 < n)
    (hfits : a + n ≤ s.widths.memSize) (hov : rangesOverlap a n s.base s.cap = false) :
    ∃ v, execs (.peek (some a) len skip) (4 + 2 * n) s =
      .next ((s.withRing (s.memAfterRead a n (adv s.rpos skip s.cap)) s.wpos s.rpos).portAt (5 + 2 * n)
        { s.plan n (adv s.rpos skip s.cap) (adv s.rpos skip s.cap) with i := n, t := v }) := by
  have ⟨hb, hw, hr, _⟩ := hu
  have hlt := usedSpace_lt hw hr
  have hstart : adv s.rpos skip s.cap < s.cap := adv_lt hr (by omega)
  have hok : argsOk (.peek (some a) len skip) = some true := by
    simp [argsOk, transferArgsOk]
    omega
  obtain ⟨u, hthree, hload⟩ := execs_three hok h hb
  have hplan : execs (.peek (some a) len skip) 4 s =
      .next (s.portAt 5 { s.plan n (adv s.rpos skip s.cap) (adv s.rpos skip s.cap) with i := 0 }) := by
    have hguard : ¬ s.snapshot.usedSpace ≤ skip := by
      show ¬ usedSpace s.wpos s.rpos s.cap ≤ skip
      omega
    rw [execs_snoc hthree, exec_peek_of_atMu_four (portAt_atMu s 4 u), hload, planPeek, if_neg hguard,
      show peekLength len skip s.snapshot = n from hn.symm]
    exact planCopy_portAt (by omega) hfits hov
  obtain ⟨v, hloop⟩ := execs_copyLoop (i := .peek (some a) len skip) (n := n) (s := s)
    (u := s.plan n (adv s.rpos skip s.cap) (adv s.rpos skip s.cap))
    (fun m j v hj => (peek_addrs hstart hj).1) (fun m j v hj => (peek_addrs hstart hj).2)
    (fun j hj => region_lt hu hstart (by omega)) (fun j hj => by omega) n (by omega)
  exact ⟨v, by rw [execs_add hplan, hloop]; rfl⟩

/-- After WRITE's loop the ring holds the source's bytes from `WPOS` on. -/
theorem load_memAfterWrite (hw : s.wpos < s.cap) (hn : n < s.cap) (hov : rangesOverlap a n s.base s.cap = false) {j : Nat}
    (hj : j < n) : (s.memAfterWrite a n).load (s.base + adv s.wpos j s.cap) = s.mem.load (a + j) :=
  load_copyBytes (dst := fun j => s.base + adv s.wpos j s.cap)
    (fun _ _ _ _ e => adv_injective (by omega) (by omega) (Nat.add_left_cancel e))
    (fun _ _ hi _ => caller_ne_region hov hi (adv_lt hw (by omega))) hj

/-- After READ's loop the caller's buffer holds the ring's bytes from the start index on. -/
theorem load_memAfterRead {start : Nat} (hs : start < s.cap) (hn : n < s.cap)
    (hov : rangesOverlap a n s.base s.cap = false) {j : Nat} (hj : j < n) :
    (s.memAfterRead a n start).load (a + j) = s.mem.load (s.base + adv start j s.cap) :=
  load_copyBytes (dst := fun j => a + j) (fun _ _ _ _ e => Nat.add_left_cancel e)
    (fun _ _ _ hj e => caller_ne_region hov hj (adv_lt hs (by omega)) e.symm) hj

/-- Nothing outside it has changed. -/
theorem load_memAfterRead_outside {start x : Nat} (hx : ¬ inRange a n x) :
    (s.memAfterRead a n start).load x = s.mem.load x :=
  load_copyBytes_of_ne fun j hj e => hx ⟨by omega, by omega⟩

end Copies

/-! ### What a finished command leaves -/

/-- The end of a command that has emitted and completes with its count, at `μk` with temporaries `v`. -/
def State.published (s : State) (e : EventKind) (n k : Nat) (v : Temps) : State :=
  ((s.emit e n).portAt k v).complete n none

/-- What it has changed. -/
theorem published_frame (s : State) (m : Memory) (w r : Nat) (e : EventKind) (n k : Nat) (v : Temps) :
    ((s.withRing m w r).published e n k v).mem = m ∧ ((s.withRing m w r).published e n k v).wpos = w ∧
    ((s.withRing m w r).published e n k v).rpos = r ∧
    ((s.withRing m w r).published e n k v).evq = s.evq ++ eventsOf s e n ∧
    countResult n ((s.withRing m w r).published e n k v) ∧ sameBinding s ((s.withRing m w r).published e n k v) ∧
    sameHook s ((s.withRing m w r).published e n k v) ∧ sameSurroundings s ((s.withRing m w r).published e n k v) := by
  simp [State.published, countResult, addrResult, avFlag, sameBinding, sameHook, sameSurroundings, sameOperands, emit_evq,
    eventsOf]

/-- The last three micro-steps of the commands that store an index: the store, the event, the result (R141, R142, R160,
R161). -/
theorem execs_publish {i : Instr} {e : EventKind} {s t : State} {n k : Nat} {u : Temps}
    (hstore : exec i s = .next (t.portAt (k + 1) u))
    (hemit : exec i (t.portAt (k + 1) u) = .next (emitStep e n (t.portAt (k + 1) u)))
    (hdone : ∀ s' : State, exec i (s'.portAt (k + 2) u) = .next ((s'.portAt (k + 2) u).complete n none)) :
    execs i 3 s = .next (t.published e n (k + 2) u) := by
  rw [emitStep_portAt] at hemit
  rw [execs_succ hstore, execs_succ hemit, execs_succ (hdone _)]
  rfl

section Publish

variable {s : State} {u : Temps}

theorem portAt_post (hi : u.i = u.n) (m : Nat) : (s.portAt (5 + 2 * u.n + m) u).copyStage = .post m := by
  rw [portAt_copyStage]
  exact copyStage_of_post hi rfl

theorem execs_write_publish (src : Option Nat) (len : Nat) (hi : u.i = u.n) : execs (.write src len) 3 (s.portAt (5 + 2 * u.n) u) =
    .next ((s.withRing s.mem (adv u.sw u.n u.cap) s.rpos).published .write u.n (5 + 2 * u.n + 2) u) := by
  apply execs_publish
  · exact ((exec_write_of_post (by simp) (portAt_post hi 0) src len).1 rfl).trans (congrArg _ (storeWpos_portAt s _ u))
  · simpa using (exec_write_of_post (by simp; omega) (portAt_post hi 1) src len).2.1 rfl
  · intro s'
    simpa using (exec_write_of_post (s := s'.portAt (5 + 2 * u.n + 2) u) (by simp; omega) (portAt_post hi 2) src len).2.2 rfl

theorem execs_read_publish (dst : Option Nat) (len : Nat) (hi : u.i = u.n) : execs (.read dst len) 3 (s.portAt (5 + 2 * u.n) u) =
    .next ((s.withRing s.mem s.wpos (adv u.sr u.n u.cap)).published .read u.n (5 + 2 * u.n + 2) u) := by
  apply execs_publish
  · exact ((exec_read_of_post (by simp) (portAt_post hi 0) dst len).1 rfl).trans (congrArg _ (storeRpos_portAt s _ u))
  · simpa using (exec_read_of_post (by simp; omega) (portAt_post hi 1) dst len).2.1 rfl
  · intro s'
    simpa using (exec_read_of_post (s := s'.portAt (5 + 2 * u.n + 2) u) (by simp; omega) (portAt_post hi 2) dst len).2.2 rfl

theorem execs_skip_publish (len : Nat) : execs (.skip len) 3 (s.portAt 5 u) =
    .next ((s.withRing s.mem s.wpos (adv u.sr u.n u.cap)).published .read u.n 7 u) := by
  apply execs_publish (k := 5)
  · simp [exec, execSkip, indexMove, storeRpos_portAt]
  · simp [exec, execSkip, indexMove]
  · simp [exec, execSkip, indexMove]

theorem execs_advance_publish (len : Nat) : execs (.advance len) 3 (s.portAt 5 u) =
    .next ((s.withRing s.mem (adv u.sw u.n u.cap) s.rpos).published .write u.n 7 u) := by
  apply execs_publish (k := 5)
  · simp [exec, execAdvance, indexMove, storeWpos_portAt]
  · simp [exec, execAdvance, indexMove]
  · simp [exec, execAdvance, indexMove]

end Publish

/-! ### The statements -/

/-- Settles O31: the ready check, the snapshot and the plan, the loop over disjoint ranges, the index store, the event
and the result. -/
theorem writeCopiesPublishesAndReports : Obligations.WriteCopiesPublishesAndReports := by
  intro s a len n h hu hn h0 hfits hov
  have ⟨_, hw, hr, _⟩ := hu
  have hlt : n < s.cap := by
    have := freeSpace_lt (r := s.rpos) hw
    omega
  obtain ⟨v, hloop⟩ := execs_write_loop h hu hn h0 hfits hov
  have hpublish := execs_write_publish (s := s.withRing (s.memAfterWrite a n) s.wpos s.rpos)
    (u := { s.plan n s.wpos s.me.tmp.s0 with i := n, t := v }) (some a) len rfl
  have hrun := (execs_add (k := 3) hloop).trans hpublish
  obtain ⟨s1, hfirst, hrest⟩ := execs_succ_next (k := 2 * n + 6) (by rwa [show 4 + 2 * n + 3 = 2 * n + 6 + 1 by omega] at hrun)
  obtain ⟨hmem, hwpos, hrpos, hevq, hcount, hbinding, hhook, hsurr⟩ := published_frame s (s.memAfterWrite a n)
    (adv s.wpos n s.cap) s.rpos .write n (5 + 2 * n + 2) { s.plan n s.wpos s.me.tmp.s0 with i := n, t := v }
  refine ⟨s1, _, hfirst, hrest, fun j hj => ?_, fun x hx => ?_, hwpos, hrpos, hevq, hcount, hbinding, hhook, hsurr⟩
  · exact (congrArg (fun m => Memory.load m _) hmem).trans (load_memAfterWrite hw hlt hov hj)
  · exact (congrArg (fun m => Memory.load m _) hmem).trans (load_copyBytes_of_ne hx)

/-- Settles O32: READ is WRITE's run with the two ranges exchanged. -/
theorem readCopiesConsumesAndReports : Obligations.ReadCopiesConsumesAndReports := by
  intro s a len n h hu hn h0 hfits hov
  have ⟨_, hw, hr, _⟩ := hu
  have hlt : n < s.cap := by
    have := usedSpace_lt hw hr
    omega
  obtain ⟨v, hloop⟩ := execs_read_loop h hu hn h0 hfits hov
  have hpublish := execs_read_publish (s := s.withRing (s.memAfterRead a n s.rpos) s.wpos s.rpos)
    (u := { s.plan n s.rpos s.me.tmp.s0 with i := n, t := v }) (some a) len rfl
  have hrun := (execs_add (k := 3) hloop).trans hpublish
  obtain ⟨s1, hfirst, hrest⟩ := execs_succ_next (k := 2 * n + 6) (by rwa [show 4 + 2 * n + 3 = 2 * n + 6 + 1 by omega] at hrun)
  obtain ⟨hmem, hwpos, hrpos, hevq, hcount, hbinding, hhook, hsurr⟩ := published_frame s (s.memAfterRead a n s.rpos)
    s.wpos (adv s.rpos n s.cap) .read n (5 + 2 * n + 2) { s.plan n s.rpos s.me.tmp.s0 with i := n, t := v }
  refine ⟨s1, _, hfirst, hrest, fun j hj => ?_, fun x hx => ?_, hrpos, hwpos, hevq, hcount, hbinding, hhook, hsurr⟩
  · exact (congrArg (fun m => Memory.load m _) hmem).trans (load_memAfterRead hr hlt hov hj)
  · exact (congrArg (fun m => Memory.load m _) hmem).trans (load_memAfterRead_outside hx)

/-- Settles O33: PEEK is READ's run from its own start index, with the result right after the loop. -/
theorem peekCopiesAndLeavesTheRing : Obligations.PeekCopiesAndLeavesTheRing := by
  intro s a len skip n h hu hn h0 hfits hov
  have ⟨_, hw, hr, _⟩ := hu
  have hlt : skip + n < s.cap := by
    have := usedSpace_lt hw hr
    omega
  obtain ⟨v, hloop⟩ := execs_peek_loop h hu hn h0 hfits hov
  have hdone := exec_peek_of_post (s := (s.withRing (s.memAfterRead a n (adv s.rpos skip s.cap)) s.wpos s.rpos).portAt (5 + 2 * n)
    { s.plan n (adv s.rpos skip s.cap) (adv s.rpos skip s.cap) with i := n, t := v }) (by simp)
    (portAt_post (u := { s.plan n (adv s.rpos skip s.cap) (adv s.rpos skip s.cap) with i := n, t := v }) rfl 0) (some a) len skip
  have hrun := (execs_snoc hloop).trans hdone
  obtain ⟨s1, hfirst, hrest⟩ := execs_succ_next (k := 2 * n + 4) (by rwa [show 4 + 2 * n + 1 = 2 * n + 4 + 1 by omega] at hrun)
  refine ⟨s1, _, hfirst, hrest, fun j hj => ?_, fun x hx => ?_, ?_⟩
  · rw [← adv_adv hr (by omega)]
    simpa using load_memAfterRead (adv_lt hr (by omega)) (by omega) hov hj
  · simpa using load_memAfterRead_outside hx
  · simp [sameIndices, countResult, addrResult, avFlag, sameBinding, sameHook, sameSurroundings, sameOperands, State.plan]

end Sys2Proof.Machine

namespace Sys2Proof.Machine

/-! ### The index moves and RESET -/

/-- Settles O34: an index move is a copy's run without the loop. -/
theorem indexMovesClampPublishAndReport : Obligations.IndexMovesClampPublishAndReport := by
  refine ⟨fun s len n h hu hn h0 => ?_, fun s len n h hu hn h0 => ?_⟩
  · have ⟨hb, _⟩ := hu
    have hok : argsOk (.skip len) = some true := by
      simp [argsOk, countArgOk]
      omega
    obtain ⟨u, hthree, hload⟩ := execs_three hok h hb
    have hplan : execs (.skip len) 4 s = .next (s.portAt 5 { s.snapshot with n := n }) := by
      rw [execs_snoc hthree, exec_skip_of_atMu_four (portAt_atMu s 4 u), hload, planCount,
        show min len s.snapshot.usedSpace = n from hn.symm, if_neg (by omega), portAt_goOn]
    have hrun := (execs_add (k := 3) hplan).trans (execs_skip_publish len)
    obtain ⟨s1, hfirst, hrest⟩ := execs_succ_next (k := 6) hrun
    obtain ⟨hmem, hwpos, hrpos, hevq, hframe⟩ := published_frame s s.mem s.wpos (adv s.rpos n s.cap) .read n 7
      { s.snapshot with n := n }
    exact ⟨s1, _, hfirst, hrest, hrpos, hwpos, hevq, hmem, hframe⟩
  · have ⟨hb, _⟩ := hu
    have hok : argsOk (.advance len) = some true := by
      simp [argsOk, countArgOk]
      omega
    obtain ⟨u, hthree, hload⟩ := execs_three hok h hb
    have hplan : execs (.advance len) 4 s = .next (s.portAt 5 { s.snapshot with n := n }) := by
      rw [execs_snoc hthree, exec_advance_of_atMu_four (portAt_atMu s 4 u), hload, planCount,
        show min len s.snapshot.freeSpace = n from hn.symm, if_neg (by omega), portAt_goOn]
    have hrun := (execs_add (k := 3) hplan).trans (execs_advance_publish len)
    obtain ⟨s1, hfirst, hrest⟩ := execs_succ_next (k := 6) hrun
    obtain ⟨hmem, hwpos, hrpos, hevq, hframe⟩ := published_frame s s.mem (adv s.wpos n s.cap) s.rpos .write n 7
      { s.snapshot with n := n }
    exact ⟨s1, _, hfirst, hrest, hwpos, hrpos, hevq, hmem, hframe⟩

/-- Settles O35: RESET stores both indices as 0, emits, and answers the zero result (R180). -/
theorem resetEmptiesTheReadyBuffer : Obligations.ResetEmptiesTheReadyBuffer := by
  intro s h hb ho
  have hfirst : exec .reset s = .next (s.portAt 2 s.binding) := by
    have hready : exec .reset s = .next (readyCheck s) := execReset_of_atMu_one h
    rw [hready, readyCheck, if_pos hb, goOn_eq_portAt h]
    rfl
  have hstore : exec .reset (s.portAt 2 s.binding) = .next ((s.withRing s.mem 0 0).portAt 3 s.binding) := by
    rw [exec_reset_of_quiescent (portAt_atMu s 2 s.binding) (by simpa using ho), ← portAt_withRing_goOn s 2 s.binding]
    simp [State.withRing]
  have hrest := execs_publish (i := .reset) (e := .reset) (n := 0) (k := 2) hstore
    (by simp [exec, execReset]) (fun s' => by simp [exec, execReset, State.completeZero])
  obtain ⟨hmem, hwpos, hrpos, hevq, hcount, hbinding, hhook, hsurr⟩ := published_frame s s.mem 0 0 .reset 0 4 s.binding
  refine ⟨_, _, hfirst, hrest, hwpos, hrpos, hevq, hcount, hmem, hbinding, hhook, hsurr, ?_⟩
  obtain ⟨-, -, hcap⟩ := hbinding
  simp [hwpos, hrpos, hcap, usedSpace, freeSpace, linRead, linWrite]

/-! ### Nothing to move, and a buffer that may not be used -/

/-- The zero result at the end of a snapshot. -/
theorem completeZero_portAt_frame (s : State) (k : Nat) (u v : Temps) (t : State)
    (ht : t = ((s.portAt k u).setMe { (s.portAt k u).me with tmp := v }).completeZero) :
    zeroResult t ∧ sameBinding s t ∧ sameHook s t ∧ sameIndices s t ∧ t.mem = s.mem ∧ t.evq = s.evq ∧
      sameSurroundings s t := by
  subst ht
  simp [zeroResult, sameBinding, sameHook, sameIndices, sameSurroundings, sameOperands]

/-- Settles O36: with an effective count of 0 the plan is the zero result. -/
theorem nothingToMoveChangesNothing : Obligations.NothingToMoveChangesNothing := by
  intro s i h ⟨hb, _⟩ hcase
  have hok : argsOk i = some true := by
    rcases hcase with ⟨a, len, hlen, rfl | rfl, -⟩ | ⟨a, len, hlen, rfl | rfl, -⟩ | ⟨a, len, skip, hlen, rfl, -⟩ <;>
      simp [argsOk, transferArgsOk, countArgOk, hlen]
  obtain ⟨u, hthree, hload⟩ := execs_three hok h hb
  refine ⟨((s.portAt 4 u).setMe { (s.portAt 4 u).me with tmp := s.snapshot }).completeZero, ?_,
    completeZero_portAt_frame s 4 u s.snapshot _ rfl⟩
  have h4 := portAt_atMu s 4 u
  rw [execs_snoc hthree]
  rcases hcase with ⟨a, len, -, rfl | rfl, hfree⟩ | ⟨a, len, -, rfl | rfl, hused⟩ | ⟨a, len, skip, -, rfl, hused⟩
  · have hn : writeLength len s.snapshot = 0 := by
      rw [show writeLength len s.snapshot = min len (freeSpace s.wpos s.rpos s.cap) from rfl, hfree, Nat.min_zero]
    rw [exec_write_of_atMu_four h4, hload, hn, planCopy, if_pos rfl]
  · have hn : min len s.snapshot.freeSpace = 0 := by
      rw [show s.snapshot.freeSpace = freeSpace s.wpos s.rpos s.cap from rfl, hfree, Nat.min_zero]
    rw [exec_advance_of_atMu_four h4, hload, planCount, if_pos hn]
  · have hn : readLength len s.snapshot = 0 := by
      rw [show readLength len s.snapshot = min len (usedSpace s.wpos s.rpos s.cap) from rfl, hused, Nat.min_zero]
    rw [exec_read_of_atMu_four h4, hload, hn, planCopy, if_pos rfl]
  · have hn : min len s.snapshot.usedSpace = 0 := by
      rw [show s.snapshot.usedSpace = usedSpace s.wpos s.rpos s.cap from rfl, hused, Nat.min_zero]
    rw [exec_skip_of_atMu_four h4, hload, planCount, if_pos hn]
  · rw [exec_peek_of_atMu_four h4, hload, planPeek, if_pos (show s.snapshot.usedSpace ≤ skip from hused)]

/-- The plan of a copy refuses a caller's buffer that wraps or overlaps the region (U4). -/
theorem planCopy_refuses {s : State} {u : Temps} {buf : Option Nat} {n start : Nat} (hn : n ≠ 0) :
    (s.widths.memSize < ptrAddr buf + n → planCopy buf n start u s = .refused .bufferWraps) ∧
    (ptrAddr buf + n ≤ s.widths.memSize → rangesOverlap (ptrAddr buf) n u.b u.cap = true →
      planCopy buf n start u s = .refused .bufferOverlapsRegion) := by
  constructor
  · intro hwraps
    simp [planCopy, hn, hwraps]
  · intro hfits hov
    simp [planCopy, hn, Nat.not_lt.mpr hfits, hov]

/-- Settles O37: the plan comes at the fourth micro-step, where the effective length is known. -/
theorem copyStopsOnABadCallerBuffer : Obligations.CopyStopsOnABadCallerBuffer := by
  intro s i a len n h ⟨hb, _⟩ h0 hcase
  have hok : argsOk i = some true := by
    rcases hcase with ⟨rfl, hn⟩ | ⟨rfl, hn⟩ | ⟨skip, rfl, hn⟩ <;> simp [argsOk, transferArgsOk] <;> omega
  obtain ⟨u, hthree, hload⟩ := execs_three hok h hb
  have h4 := portAt_atMu s 4 u
  have hplan : ∃ start v, v.b = s.base ∧ v.cap = s.cap ∧ execs i 4 s = planCopy (some a) n start v (s.portAt 4 u) := by
    rw [execs_snoc hthree]
    rcases hcase with ⟨rfl, hn⟩ | ⟨rfl, hn⟩ | ⟨skip, rfl, hn⟩
    · refine ⟨s.wpos, s.snapshot, rfl, rfl, ?_⟩
      rw [exec_write_of_atMu_four h4, hload, show writeLength len s.snapshot = n from hn.symm]
      rfl
    · refine ⟨s.rpos, s.snapshot, rfl, rfl, ?_⟩
      rw [exec_read_of_atMu_four h4, hload, show readLength len s.snapshot = n from hn.symm]
      rfl
    · have hguard : ¬ s.snapshot.usedSpace ≤ skip := by
        show ¬ usedSpace s.wpos s.rpos s.cap ≤ skip
        omega
      refine ⟨peekStart skip s.snapshot, { s.snapshot with s0 := peekStart skip s.snapshot }, rfl, rfl, ?_⟩
      rw [exec_peek_of_atMu_four h4, hload, planPeek, if_neg hguard, show peekLength len skip s.snapshot = n from hn.symm]
  obtain ⟨start, v, hvb, hvcap, hplan⟩ := hplan
  obtain ⟨hwraps, hoverlaps⟩ := planCopy_refuses (s := s.portAt 4 u) (u := v) (buf := some a) (start := start)
    (Nat.pos_iff_ne_zero.mp h0)
  rw [hplan]
  exact ⟨fun hbad => hwraps (by simpa [ptrAddr] using hbad),
    fun hfits hov => hoverlaps (by simpa [ptrAddr] using hfits) (by rwa [hvb, hvcap])⟩

/-! ### Runs compared -/

/-- Two ports that are idle with the same count hold the same results. -/
theorem sameResults_of_countResult {n : Nat} {t u : State} (ht : countResult n t) (hu : countResult n u) :
    t.me.phase = u.me.phase ∧ sameResults t.me u.me := by
  obtain ⟨hphase, hr0, hr1, hav⟩ := ht
  obtain ⟨kphase, kr0, kr1, kav⟩ := hu
  exact ⟨hphase.trans kphase.symm, kr0.trans hr0.symm, kr1.trans hr1.symm, kav.trans hav.symm⟩

/-- Settles O38: the runs of O31, O32 and O34 end alike but for memory. -/
theorem indexMovesMatchTheCopies : Obligations.IndexMovesMatchTheCopies := by
  rintro s a len n h hu h0 hfits hov copy move (⟨rfl, rfl, hn⟩ | ⟨rfl, rfl, hn⟩)
  · obtain ⟨s1, t, hs1, ht, -, -, htr, htw, hte, htc, -⟩ := readCopiesConsumesAndReports s a len n h hu hn h0 hfits hov
    obtain ⟨s2, u, hs2, hu, hur, huw, hue, hum, huc, -⟩ := indexMovesClampPublishAndReport.1 s len n h hu hn h0
    exact ⟨t, u, (execs_succ hs1).trans ht, (execs_succ hs2).trans hu, htw.trans huw.symm, htr.trans hur.symm,
      hte.trans hue.symm, (sameResults_of_countResult htc huc).1, (sameResults_of_countResult htc huc).2, hum⟩
  · obtain ⟨s1, t, hs1, ht, -, -, htw, htr, hte, htc, -⟩ := writeCopiesPublishesAndReports s a len n h hu hn h0 hfits hov
    obtain ⟨s2, u, hs2, hu, huw, hur, hue, hum, huc, -⟩ := indexMovesClampPublishAndReport.2 s len n h hu hn h0
    exact ⟨t, u, (execs_succ hs1).trans ht, (execs_succ hs2).trans hu, htw.trans huw.symm, htr.trans hur.symm,
      hte.trans hue.symm, (sameResults_of_countResult htc huc).1, (sameResults_of_countResult htc huc).2, hum⟩

/-- Settles O39: after WRITE on an empty ring the used space is its count, so READ moves as much, from where WRITE put it. -/
theorem writeThenReadReturnsTheBytes : Obligations.WriteThenReadReturnsTheBytes := by
  rintro s a d len n hcur h hC ⟨hb, hw, hr, hregion⟩ hempty rfl h0 hfree hafits haov hdfits hdov
  have hn : n = min n (freeSpace s.wpos s.rpos s.cap) := by omega
  obtain ⟨s1, t, hs1, ht, hbytes, -, htw, htr, -, ⟨-, htr0, -⟩, ⟨htb, htbase, htcap⟩, -, htopp, -, htws, htcur, -⟩ :=
    writeCopiesPublishesAndReports s a n n h ⟨hb, hw, hr, hregion⟩ hn h0 hafits haov
  have htP : t.portP = t.me := port_of_cur (p := .P) (htcur.trans hcur)
  have htC : t.portC = s.portC :=
    (port_other_of_cur (p := .P) (htcur.trans hcur)).trans (htopp.trans (port_other_of_cur (p := .P) hcur).symm)
  have hlt := freeSpace_lt (r := s.rpos) hw
  have hused : usedSpace t.wpos t.rpos t.cap = n := by
    rw [htw, htr, htcap, usedSpace_adv_write hw hr hfree, (usedSpace_eq_zero_iff hr).mpr hempty, Nat.zero_add]
  have hready : Usable { t with cur := .C } :=
    ⟨htb.trans hb, by simpa [htw, htcap] using adv_lt hw (by omega), by simpa [htr, htcap] using hr,
      by simpa [htbase, htcap, htws] using hregion⟩
  obtain ⟨s2, u, hs2, hu, hread, -, hur, huw, -, ⟨-, hur0, -⟩, -, -, -, -, -, hucur, -⟩ :=
    readCopiesConsumesAndReports { t with cur := .C } d n n (withCur_atMu (p := .C) ((congrArg PortRegs.phase htC).trans hC))
      hready (by simp [hused]) h0 (by simpa [htws] using hdfits) (by simpa [htbase, htcap] using hdov)
  have huC : u.portC = u.me := port_of_cur (p := .C) hucur
  refine ⟨t, u, (execs_succ hs1).trans ht, (execs_succ hs2).trans hu, by rw [htP, htr0], by rw [huC, hur0], ?_, fun j hj => ?_⟩
  · rw [huw, hur, htw, htr, htcap, hempty]
  · rw [hread j hj, ← hbytes j hj, hempty]
    simp [htbase, htr, htcap]

end Sys2Proof.Machine

/-! Proofs of the invariant statements: a running port always moves or is refused by name (spec/70_reset_and_hazards.md
section 4, spec/93_implementation_defined.md section 1), and never faults (spec/60_exceptions.md section 1). -/

namespace Sys2Proof.Machine

/-! ### The invariant, read from the stepping port -/

/-- What the two ports both have, the stepping and the opposite one have. -/
theorem ports_iff (Q : PortRegs → Prop) (s : State) : (Q s.portP ∧ Q s.portC) ↔ (Q s.me ∧ Q s.opposite) := by
  unfold State.me State.opposite
  cases s.cur
  · exact Iff.rfl
  · exact and_comm

/-- The temporaries hold values of their widths. -/
def Temps.inWidth (ws : Widths) (u : Temps) : Prop :=
  u.b < ws.memSize ∧ u.cap < ws.wordSize ∧ u.sw < ws.wordSize ∧ u.sr < ws.wordSize ∧ u.n < ws.wordSize ∧
    u.c1 < ws.wordSize ∧ u.i < ws.wordSize ∧ u.s0 < ws.wordSize

theorem inWidth_iff (ws : Widths) (x : PortRegs) : x.inWidth ws ↔
    (x.a0 < ws.memSize ∧ x.a1 < ws.wordSize ∧ x.a2 < ws.wordSize) ∧ (x.r0 < ws.wordSize ∧ x.r1 < ws.memSize) ∧
      x.tmp.inWidth ws := by
  simp only [PortRegs.inWidth, Temps.inWidth, and_assoc]

/-- `Fits` but for the ports. -/
structure SharedFits (s : State) : Prop where
  one_le : 1 ≤ s.widths.w
  base : s.base < s.widths.memSize
  nhnd : s.nhnd < s.widths.memSize
  cap : s.cap < s.widths.wordSize
  wpos : s.wpos < s.widths.wordSize
  rpos : s.rpos < s.widths.wordSize
  evq : ∀ e ∈ s.evq, e.handle < s.widths.memSize ∧ e.count < s.widths.wordSize
  mem : s.mem.below s.widths.memSize = true

/-- The invariant, by the stepping and the opposite port. -/
structure InvAt (s : State) : Prop where
  usable : s.bound = true → Usable s
  me : portOk s s.me
  opposite : portOk s s.opposite
  wf : s.mem.wf = true
  shared : SharedFits s
  meFits : s.me.inWidth s.widths
  oppositeFits : s.opposite.inWidth s.widths

theorem inv_iff_invAt (s : State) : Inv s ↔ InvAt s := by
  constructor
  · rintro ⟨husable, hP, hC, hwf, h1, hbase, hnhnd, hcap, hwpos, hrpos, hPfits, hCfits, hevq, hmem⟩
    obtain ⟨hme, hopp⟩ := (ports_iff (portOk s) s).mp ⟨hP, hC⟩
    obtain ⟨hmeFits, hoppFits⟩ := (ports_iff (PortRegs.inWidth s.widths) s).mp ⟨hPfits, hCfits⟩
    exact ⟨husable, hme, hopp, hwf, ⟨h1, hbase, hnhnd, hcap, hwpos, hrpos, hevq, hmem⟩, hmeFits, hoppFits⟩
  · rintro ⟨husable, hme, hopp, hwf, ⟨h1, hbase, hnhnd, hcap, hwpos, hrpos, hevq, hmem⟩, hmeFits, hoppFits⟩
    obtain ⟨hP, hC⟩ := (ports_iff (portOk s) s).mpr ⟨hme, hopp⟩
    obtain ⟨hPfits, hCfits⟩ := (ports_iff (PortRegs.inWidth s.widths) s).mpr ⟨hmeFits, hoppFits⟩
    exact ⟨husable, hP, hC, hwf, h1, hbase, hnhnd, hcap, hwpos, hrpos, hPfits, hCfits, hevq, hmem⟩

/-- The invariant does not speak of the schedule, nor of whose turn it is. -/
theorem inv_onTurn {s : State} (p : Port) (h : Inv s) : Inv (s.onTurn p) := h

/-- Command `i` of the stepping port is where it can be (R34), on the binding it latched (R15). -/
structure Running (s : State) (i : Instr) : Prop where
  one_le : 1 ≤ s.mu
  latched : 2 ≤ s.mu → s.bound = true ∧ s.me.tmp.b = s.base ∧ s.me.tmp.cap = s.cap ∧
    progressOk s.widths.memSize i s.mu s.me.tmp

theorem running_of_portOk {s : State} {i : Instr} {k : Nat} (h : portOk s s.me) (hk : s.me.phase = .run k)
    (hd : decode s.me.packet = .ok i) : Running s i := by
  have hmu : s.mu = k := mu_of_atMu hk
  simp only [portOk, hk] at h
  obtain ⟨h1, hlatched⟩ := h
  refine ⟨by omega, fun h2 => ?_⟩
  obtain ⟨hb, hbase, hcap, j, hj, hprogress⟩ := hlatched (by omega)
  obtain rfl : j = i := by
    rw [hd] at hj
    exact (Except.ok.inj hj).symm
  exact ⟨hb, hbase, hcap, by rwa [hmu]⟩

/-! ### Where a copy in flight is -/

/-- A copy in flight is at a read, at a write, or at one of the micro-steps after its loop. -/
theorem copyOk_stage {size extra k start : Nat} {buf : Option Nat} {u : Temps} (h : copyOk size extra k buf start u) :
    copyStage k u.i u.n = .rd ∨ copyStage k u.i u.n = .wr ∨ ∃ m, m ≤ extra ∧ copyStage k u.i u.n = .post m := by
  obtain ⟨-, -, -, -, -, -, ⟨hi, hk | hk⟩ | ⟨hi, hlo, hhi⟩⟩ := h
  · exact .inl (copyStage_of_rd hi hk)
  · exact .inr (.inl (copyStage_of_wr hi hk))
  · exact .inr (.inr ⟨k - (5 + 2 * u.n), by omega, copyStage_of_post hi (by omega)⟩)

/-- The ring's byte of a copy in flight is at region index `adv(start, i, N)`. -/
theorem regionAddr_eq {s : State} {size extra k start : Nat} {buf : Option Nat} (h : copyOk size extra k buf start s.me.tmp)
    (hi : s.me.tmp.i < s.me.tmp.n) :
    s.regionAddr start = s.me.tmp.b + adv start s.me.tmp.i s.me.tmp.cap := by
  obtain ⟨-, hs, -, hc1, -⟩ := h
  rw [State.regionAddr, hc1, segAddr_eq_adv hs hi]

/-- Both addresses of a copy in flight exist. -/
theorem copyOk_addrs {s : State} {extra k start : Nat} {buf : Option Nat} (hu : Usable s) (hb : s.me.tmp.b = s.base)
    (hc : s.me.tmp.cap = s.cap) (h : copyOk s.widths.memSize extra k buf start s.me.tmp) (hi : s.me.tmp.i < s.me.tmp.n) :
    s.callerAddr buf < s.widths.memSize ∧ s.regionAddr start < s.widths.memSize := by
  obtain ⟨-, -, -, hregion⟩ := hu
  rw [regionAddr_eq h hi]
  obtain ⟨-, hs, hn, -, hfits, -⟩ := h
  have := adv_lt hs (by omega : s.me.tmp.i ≤ s.me.tmp.cap)
  unfold State.callerAddr bufAddr
  constructor <;> omega

/-! ### The plan of a copy, and where it is refused -/

@[simp] theorem secondLoad_b (o : SnapOrder) (s : State) : (secondLoad o s).b = s.me.tmp.b := by cases o <;> rfl

@[simp] theorem secondLoad_cap (o : SnapOrder) (s : State) : (secondLoad o s).cap = s.me.tmp.cap := by cases o <;> rfl

/-- At its fourth micro-step a command with an effective length plans the copy of that many bytes. -/
theorem exec_of_effectiveLength {i : Instr} {s : State} (h : s.atMu 4) (hn : 0 < effectiveLength i s) :
    ∃ start u, u.b = s.me.tmp.b ∧ u.cap = s.me.tmp.cap ∧
      exec i s = planCopy (callerBuffer i) (effectiveLength i s) start u s := by
  cases i with
  | write src len => exact ⟨_, _, secondLoad_b _ s, secondLoad_cap _ s, exec_write_of_atMu_four h src len⟩
  | read dst len => exact ⟨_, _, secondLoad_b _ s, secondLoad_cap _ s, exec_read_of_atMu_four h dst len⟩
  | peek dst len skip =>
    have hguard : ¬ (secondLoad Config.snapOrder s).usedSpace ≤ skip := by
      simp only [effectiveLength] at hn
      omega
    refine ⟨peekStart skip (secondLoad Config.snapOrder s), { secondLoad Config.snapOrder s with s0 := peekStart skip (secondLoad Config.snapOrder s) },
      secondLoad_b Config.snapOrder s, secondLoad_cap Config.snapOrder s, ?_⟩
    rw [exec_peek_of_atMu_four h, planPeek, if_neg hguard]
    rfl
  | _ => exact absurd hn (Nat.lt_irrefl 0)

/-- Where `StopsAs` says so, the micro-step is refused by that name. -/
theorem exec_of_stopsAs {i : Instr} {s : State} {r : Refusal} (h : StopsAs i s r) : exec i s = .refused r := by
  obtain ⟨rfl, a, cap, rfl, hmu, hc, hwraps⟩ | ⟨rfl, hbusy, ⟨a, cap, rfl, hmu, hc, hfits⟩ | ⟨rfl, hmu, hb⟩ | ⟨rfl, hmu⟩⟩ |
    ⟨rfl, hmu, hn, hwraps⟩ | ⟨rfl, hmu, hn, hfits, hov⟩ := h
  · exact exec_init_of_wraps hmu hc hwraps
  · exact exec_init_of_busy hmu hc hfits hbusy
  · exact exec_detach_of_busy hmu hb hbusy
  · exact exec_reset_of_busy hmu hbusy
  · obtain ⟨start, u, -, -, hplan⟩ := exec_of_effectiveLength hmu hn
    rw [hplan]
    exact (planCopy_refuses (Nat.pos_iff_ne_zero.mp hn)).1 hwraps
  · obtain ⟨start, u, hub, huc, hplan⟩ := exec_of_effectiveLength hmu hn
    rw [hplan]
    exact (planCopy_refuses (Nat.pos_iff_ne_zero.mp hn)).2 hfits (by rwa [hub, huc])

/-! ### Every command answers -/

/-- The micro-step has an answer: a next state, or the refusal of its situation. -/
def Answers (i : Instr) (s : State) : Prop :=
  (∃ t, exec i s = .next t) ∨ ∃ r, exec i s = .refused r ∧ StopsAs i s r

theorem Answers.of_next {i : Instr} {s t : State} (h : exec i s = .next t) : Answers i s := .inl ⟨t, h⟩

theorem Answers.of_stopsAs {i : Instr} {s : State} {r : Refusal} (h : StopsAs i s r) : Answers i s :=
  .inr ⟨r, exec_of_stopsAs h, h⟩

/-- The fourth micro-step of a copy command. -/
theorem answers_of_atMu_four {i : Instr} {s : State} (h : s.atMu 4)
    (hi : (∃ p len, i = .write p len) ∨ (∃ p len, i = .read p len) ∨ (∃ p len skip, i = .peek p len skip)) : Answers i s := by
  by_cases hn : 0 < effectiveLength i s
  · by_cases hwraps : s.widths.memSize < ptrAddr (callerBuffer i) + effectiveLength i s
    · exact .of_stopsAs (.inr (.inr (.inl ⟨rfl, h, hn, hwraps⟩)))
    · cases hov : rangesOverlap (ptrAddr (callerBuffer i)) (effectiveLength i s) s.me.tmp.b s.me.tmp.cap with
      | true => exact .of_stopsAs (.inr (.inr (.inr ⟨rfl, h, hn, Nat.not_lt.mp hwraps, hov⟩)))
      | false =>
        obtain ⟨start, u, hub, huc, hplan⟩ := exec_of_effectiveLength h hn
        rw [planCopy, if_neg (by omega), if_neg hwraps, if_neg (by simp [hub, huc, hov])] at hplan
        exact .of_next hplan
  · have hn0 : effectiveLength i s = 0 := by omega
    obtain ⟨src, len, rfl⟩ | ⟨dst, len, rfl⟩ | ⟨dst, len, skip, rfl⟩ := hi
    · exact .of_next ((exec_write_of_atMu_four h src len).trans (if_pos hn0))
    · exact .of_next ((exec_read_of_atMu_four h dst len).trans (if_pos hn0))
    · have hpeek := exec_peek_of_atMu_four h dst len skip
      unfold planPeek at hpeek
      split at hpeek
      · exact .of_next hpeek
      · exact .of_next (hpeek.trans (if_pos hn0))

theorem snapshotQuery_answers {o : SnapOrder} {f : Temps → Nat} {s : State} (h1 : 1 ≤ s.mu) (h4 : s.mu ≤ 4) :
    ∃ t, snapshotQuery o f s = .next t := by
  obtain h | h | h | h : s.mu = 1 ∨ s.mu = 2 ∨ s.mu = 3 ∨ s.mu = 4 := by omega
  all_goals simp [snapshotQuery, h]

theorem addressQuery_answers_next {load : State → Temps} {ix : Temps → Nat} {s : State} (h1 : 1 ≤ s.mu) (h3 : s.mu ≤ 3) :
    ∃ t, addressQuery load ix s = .next t := by
  obtain h | h | h : s.mu = 1 ∨ s.mu = 2 ∨ s.mu = 3 := by omega
  all_goals simp [addressQuery, h]

theorem indexMove_answers {o : SnapOrder} {len : Nat} {avail : Temps → Nat} {store : State → State} {k : EventKind} {s : State}
    (h1 : 1 ≤ s.mu) (h7 : s.mu ≤ 7) : ∃ t, indexMove o len avail store k s = .next t := by
  obtain h | h | h | h | h | h | h :
    s.mu = 1 ∨ s.mu = 2 ∨ s.mu = 3 ∨ s.mu = 4 ∨ s.mu = 5 ∨ s.mu = 6 ∨ s.mu = 7 := by omega
  all_goals simp [indexMove, h]

/-- A command of one micro-step is at it. -/
theorem Running.mu_eq_one {s : State} {i : Instr} (r : Running s i) (hi : ∀ k u, ¬ progressOk s.widths.memSize i k u) :
    s.atMu 1 := by
  have h1 := r.one_le
  have h2 : ¬ 2 ≤ s.mu := fun h => hi _ _ (r.latched h).2.2.2
  exact atMu_of_mu (by omega) (by decide)

/-- A bound on the micro-steps of a command, from the second on. -/
theorem Running.mu_le {s : State} {i : Instr} {m : Nat} (r : Running s i)
    (hi : ∀ k u, progressOk s.widths.memSize i k u → k ≤ m) (hm : 1 ≤ m) : s.mu ≤ m := by
  by_cases h2 : 2 ≤ s.mu
  · exact hi _ _ (r.latched h2).2.2.2
  · omega

/-- The first three micro-steps of the commands that load a snapshot after their argument check. -/
theorem answers_of_argsOk {i : Instr} {ok : Bool} {s : State} (hi : argsOk i = some ok) (h1 : 1 ≤ s.mu) (h3 : s.mu ≤ 3) :
    Answers i s := by
  obtain h | h | h : s.mu = 1 ∨ s.mu = 2 ∨ s.mu = 3 := by omega
  · exact .of_next (exec_of_atMu_one (atMu_of_mu h (by decide)) (by rintro _ _ rfl; cases hi) (by rintro rfl; cases hi)
      (by rintro rfl; cases hi) (by rintro _ rfl; cases hi))
  · exact .of_next (exec_of_atMu_two hi (atMu_of_mu h (by decide)))
  · exact .of_next (exec_of_atMu_three hi (atMu_of_mu h (by decide)))

theorem copyRead_answers {s : State} {a : Nat} (h : a < s.widths.memSize) : ∃ t, copyRead a s = .next t :=
  ⟨_, if_pos h⟩

theorem copyWrite_answers {s : State} {a : Nat} (h : a < s.widths.memSize) : ∃ t, copyWrite a s = .next t :=
  ⟨_, if_pos h⟩

section Copies

variable {s : State} (hu : s.bound = true → Usable s) {p : Option Nat} {len skip : Nat}
include hu

theorem exec_write_answers (r : Running s (.write p len)) (h5 : 5 ≤ s.mu) : ∃ t, exec (.write p len) s = .next t := by
  obtain ⟨hb, hbase, hcap, -, -, hloop⟩ := r.latched (by omega)
  obtain ⟨-, hcopy⟩ := hloop h5
  have haddrs := copyOk_addrs (hu hb) hbase hcap hcopy
  simp only [exec, execWrite, writeStep_of_five_le h5, writeLoop]
  obtain hrd | hwr | ⟨m, hm, hpost⟩ := copyOk_stage hcopy
  · rw [show s.copyStage = .rd from hrd]
    exact copyRead_answers (haddrs (copyStage_rd hrd).1).1
  · rw [show s.copyStage = .wr from hwr]
    exact copyWrite_answers (haddrs (copyStage_wr hwr).1).2
  · rw [show s.copyStage = .post m from hpost]
    obtain rfl | rfl | rfl : m = 0 ∨ m = 1 ∨ m = 2 := by omega
    all_goals exact ⟨_, rfl⟩

theorem exec_read_answers (r : Running s (.read p len)) (h5 : 5 ≤ s.mu) : ∃ t, exec (.read p len) s = .next t := by
  obtain ⟨hb, hbase, hcap, -, -, hloop⟩ := r.latched (by omega)
  obtain ⟨-, hcopy⟩ := hloop h5
  have haddrs := copyOk_addrs (hu hb) hbase hcap hcopy
  simp only [exec, execRead, readStep_of_five_le h5, readLoop]
  obtain hrd | hwr | ⟨m, hm, hpost⟩ := copyOk_stage hcopy
  · rw [show s.copyStage = .rd from hrd]
    exact copyRead_answers (haddrs (copyStage_rd hrd).1).2
  · rw [show s.copyStage = .wr from hwr]
    exact copyWrite_answers (haddrs (copyStage_wr hwr).1).1
  · rw [show s.copyStage = .post m from hpost]
    obtain rfl | rfl | rfl : m = 0 ∨ m = 1 ∨ m = 2 := by omega
    all_goals exact ⟨_, rfl⟩

theorem exec_peek_answers (r : Running s (.peek p len skip)) (h5 : 5 ≤ s.mu) : ∃ t, exec (.peek p len skip) s = .next t := by
  obtain ⟨hb, hbase, hcap, -, -, hloop⟩ := r.latched (by omega)
  obtain ⟨-, -, -, hcopy⟩ := hloop h5
  have haddrs := copyOk_addrs (hu hb) hbase hcap hcopy
  simp only [exec, execPeek, peekStep_of_five_le h5, peekLoop]
  obtain hrd | hwr | ⟨m, hm, hpost⟩ := copyOk_stage hcopy
  · rw [show s.copyStage = .rd from hrd]
    exact copyRead_answers (haddrs (copyStage_rd hrd).1).2
  · rw [show s.copyStage = .wr from hwr]
    exact copyWrite_answers (haddrs (copyStage_wr hwr).1).1
  · obtain rfl : m = 0 := by omega
    rw [show s.copyStage = .post 0 from hpost]
    exact ⟨_, rfl⟩

end Copies

/-- A micro-step of a command that is where it can be answers a next state or is refused by name. -/
theorem exec_answers {s : State} {i : Instr} (hu : s.bound = true → Usable s) (r : Running s i) : Answers i s := by
  have h1 := r.one_le
  cases i with
  | init region cap =>
    have hmu := r.mu_eq_one fun _ _ h => h
    by_cases hbad : region = none ∨ cap = 0
    · exact .of_next (exec_init_of_failed hmu hbad)
    · obtain ⟨hregion, hc⟩ := not_or.mp hbad
      obtain ⟨a, rfl⟩ := Option.ne_none_iff_exists'.mp hregion
      by_cases hwraps : s.widths.memSize < a + cap
      · exact .of_stopsAs (.inl ⟨rfl, a, cap, rfl, hmu, hc, hwraps⟩)
      · by_cases hbusy : 2 ≤ s.opposite.phase.mu
        · exact .of_stopsAs (.inr (.inl ⟨rfl, hbusy, .inl ⟨a, cap, rfl, hmu, hc, by omega⟩⟩))
        · exact .of_next (exec_init_of_quiescent hmu hc (by omega) (by omega))
  | isready => exact .of_next (execIsready_of_atMu_one (r.mu_eq_one fun _ _ h => h))
  | detach =>
    have hmu := r.mu_eq_one fun _ _ h => h
    cases hb : s.bound with
    | false => exact .of_next (execDetach_of_notReady hmu hb)
    | true =>
      by_cases hbusy : 2 ≤ s.opposite.phase.mu
      · exact .of_stopsAs (.inr (.inl ⟨rfl, hbusy, .inr (.inl ⟨rfl, hmu, hb⟩)⟩))
      · exact .of_next (exec_detach_of_quiescent hmu hb (by omega))
  | setntfy handle =>
    have hmu := r.mu_eq_one fun _ _ h => h
    cases hb : s.bound with
    | false => exact .of_next (execSetntfy_of_notReady hmu handle hb)
    | true => exact .of_next (exec_setntfy_of_ready hmu handle hb)
  | free | used | lrlen | lwlen => exact .inl (snapshotQuery_answers h1 (r.mu_le (fun _ _ h => h.1) (by decide)))
  | lraddr | lwaddr =>
    exact .inl (addressQuery_answers_next (load := fun _ => _) h1 (r.mu_le (fun _ _ h => h.1) (by decide)))
  | skip len | advance len => exact .inl (indexMove_answers h1 (r.mu_le (fun _ _ h => h.1) (by decide)))
  | write p len =>
    obtain h3 | h4 | h5 : s.mu ≤ 3 ∨ s.mu = 4 ∨ 5 ≤ s.mu := by omega
    · exact answers_of_argsOk rfl h1 h3
    · exact answers_of_atMu_four (atMu_of_mu h4 (by decide)) (.inl ⟨p, len, rfl⟩)
    · exact .inl (exec_write_answers hu r h5)
  | read p len =>
    obtain h3 | h4 | h5 : s.mu ≤ 3 ∨ s.mu = 4 ∨ 5 ≤ s.mu := by omega
    · exact answers_of_argsOk rfl h1 h3
    · exact answers_of_atMu_four (atMu_of_mu h4 (by decide)) (.inr (.inl ⟨p, len, rfl⟩))
    · exact .inl (exec_read_answers hu r h5)
  | peek p len skip =>
    obtain h3 | h4 | h5 : s.mu ≤ 3 ∨ s.mu = 4 ∨ 5 ≤ s.mu := by omega
    · exact answers_of_argsOk rfl h1 h3
    · exact answers_of_atMu_four (atMu_of_mu h4 (by decide)) (.inr (.inr ⟨p, len, skip, rfl⟩))
    · exact .inl (exec_peek_answers hu r h5)
  | reset =>
    have h4 : s.mu ≤ 4 := r.mu_le (fun _ _ h => h) (by decide)
    obtain h | h | h | h : s.mu = 1 ∨ s.mu = 2 ∨ s.mu = 3 ∨ s.mu = 4 := by omega
    · exact .of_next (execReset_of_atMu_one (atMu_of_mu h (by decide)))
    · have hmu : s.atMu 2 := atMu_of_mu h (by decide)
      by_cases hbusy : 2 ≤ s.opposite.phase.mu
      · exact .of_stopsAs (.inr (.inl ⟨rfl, hbusy, .inr (.inr ⟨rfl, hmu⟩)⟩))
      · exact .of_next (exec_reset_of_quiescent hmu (by omega))
    · exact .of_next (t := emitStep .reset 0 s) (by simp [exec, execReset, h])
    · exact .of_next (t := s.completeZero) (by simp [exec, execReset, h])

/-! ### The machine's step -/

/-- A micro-step moves the port to the next one or completes. -/
theorem exec_phase {i : Instr} {s t : State} (h : exec i s = .next t) :
    t.me.phase = .idle ∨ t.me.phase = s.me.phase.succ := by
  obtain plain | shared := exec_next h
  · cases plain with
    | ready h => obtain ⟨-, e⟩ | ⟨-, e⟩ := readyCheck_cases s <;> simp [h, e]
    | zero h | zeroWith u h | done r a h => exact .inl (by simp [h])
    | go u h => exact .inr (by simp [h])
  · cases shared <;> subst t <;> simp [storeWpos, storeRpos, emitStep]

/-- The command of a busy port whose turn it is, where it can be. -/
theorem running_onTurn {s : State} {p : Port} {k : Nat} {i : Instr} (h : Inv s) (hp : (s.port p).phase = .run k)
    (hd : decode (s.port p).packet = .ok i) : Running (s.onTurn p) i :=
  running_of_portOk ((inv_iff_invAt _).mp (inv_onTurn p h)).me (by simpa using hp) (by simpa using hd)

/-- An illegal word has only its first micro-step. -/
theorem phase_of_illegal {s : State} {p : Port} {k : Nat} {e : Illegal} (h : Inv s) (hp : (s.port p).phase = .run k)
    (hd : decode (s.port p).packet = .error e) : k = 1 := by
  have hok : portOk s (s.port p) := by
    have := ((inv_iff_invAt _).mp (inv_onTurn p h)).me
    rwa [onTurn_me] at this
  simp only [portOk, hp] at hok
  obtain ⟨h1, hlatched⟩ := hok
  by_contra hne
  obtain ⟨-, -, -, i, hi, -⟩ := hlatched (by omega)
  rw [hd] at hi
  cases hi

/-- The step of a port with an illegal word. -/
theorem step_of_illegal {s : State} {p : Port} {e : Illegal} (hturn : s.turn = .run p) (hp : (s.port p).phase = .run 1)
    (hd : decode (s.port p).packet = .error e) : step s = .next (s.onTurn p).completeZero := by
  have hmu : (s.onTurn p).atMu 1 := by simpa [State.atMu] using hp
  rw [step, hturn]
  refine (microStep_illegal (by simpa using hp) (by simpa using hd)).trans ?_
  show execIllegal (s.onTurn p) = _
  simp [execIllegal, mu_of_atMu hmu]

/-- Settles O51: the turn of a port whose command is where it can be answers; no other turn can fault. -/
theorem stepNeverFaults : Obligations.StepNeverFaults := by
  intro s f hinv hfault
  cases hturn : s.turn with
  | run p =>
    cases hp : (s.port p).phase with
    | idle =>
      rw [idlePortHasNoMicroStep s p hturn hp] at hfault
      cases hfault
    | run k =>
      cases hd : decode (s.port p).packet with
      | ok i =>
        rw [step_of_running hturn hp hd] at hfault
        obtain ⟨t, hx⟩ | ⟨r, hx, -⟩ := exec_answers (s := s.onTurn p) hinv.1 (running_onTurn hinv hp hd)
        · cases hx.symm.trans hfault
        · cases hx.symm.trans hfault
      | error e =>
        obtain rfl := phase_of_illegal hinv hp hd
        rw [step_of_illegal hturn hp hd] at hfault
        cases hfault
  | issue | outsideWrite | outsideRead | hwReset => simp [step, takeTurn, hturn] at hfault

/-- Settles O52: the micro-step answers, `StopsAs` is where it is refused, and every other answer moves the phase. -/
theorem runningPortAlwaysMoves : Obligations.RunningPortAlwaysMoves := by
  intro s p k hinv hturn hp
  cases hd : decode (s.port p).packet with
  | ok i =>
    have hstep : step s = exec i (s.onTurn p) := step_of_running hturn hp hd
    obtain ⟨t, hx⟩ | ⟨r, hx, hstops⟩ := exec_answers (s := s.onTurn p) hinv.1 (running_onTurn hinv hp hd)
    · refine .inr ⟨fun j r hj hstops => ?_, t, hstep.trans hx, ?_⟩
      · cases hj
        cases hx.symm.trans (exec_of_stopsAs hstops)
      · rw [(exec_onTurn_ports hx).1]
        simpa [hp, Phase.succ] using exec_phase hx
    · exact .inl ⟨i, r, rfl, hstops, hstep.trans hx⟩
  | error e =>
    obtain rfl := phase_of_illegal hinv hp hd
    refine .inr ⟨(fun j r hj => by cases hj), _, step_of_illegal hturn hp hd, .inl ?_⟩
    rw [port_of_cur (by simp : (s.onTurn p).completeZero.cur = p)]
    simp

end Sys2Proof.Machine

/-! Proofs of the invariant statements: the invariant holds after reset and every step keeps it (spec/00_scope.md section 4,
spec/10_state.md section 3, spec/42_copy.md section 1). -/

namespace Sys2Proof.Machine

/-! ### The indices a snapshot has loaded -/

theorem loadedInRange_zero (u : Temps) : loadedInRange 0 u := by
  unfold loadedInRange
  split <;> exact ⟨by omega, by omega⟩

theorem loadedInRange_iff {w : Nat} (h : 2 ≤ w) (u : Temps) : loadedInRange w u ↔ u.sw < u.cap ∧ u.sr < u.cap := by
  have h1 : 1 ≤ w := by omega
  unfold loadedInRange
  split
  · simp [h, h1]
  · simp [h, h1, and_comm]

@[simp] theorem firstLoad_b (o : SnapOrder) (s : State) : (firstLoad o s).b = s.me.tmp.b := by cases o <;> rfl

@[simp] theorem firstLoad_cap (o : SnapOrder) (s : State) : (firstLoad o s).cap = s.me.tmp.cap := by cases o <;> rfl

section Loads

variable {s : State} (hu : Usable s) (hc : s.me.tmp.cap = s.cap)
include hu hc

/-- The first load of a snapshot finds an index of the ring. -/
theorem loadedInRange_firstLoad : loadedInRange 1 (firstLoad Config.snapOrder s) := by
  obtain ⟨-, hw, hr, -⟩ := hu
  unfold loadedInRange firstLoad
  cases Config.snapOrder with
  | wFirst => simp [hc, hw]
  | rFirst => simp [hc, hr]

/-- So does the second, and the first is still there. -/
theorem secondLoad_lt (h : loadedInRange 1 s.me.tmp) :
    (secondLoad Config.snapOrder s).sw < s.cap ∧ (secondLoad Config.snapOrder s).sr < s.cap := by
  obtain ⟨-, hw, hr, -⟩ := hu
  revert h
  unfold loadedInRange secondLoad
  cases Config.snapOrder with
  | wFirst => simp [hc, hr]
  | rFirst => simp [hc, hw]

end Loads

/-! ### The values written fit their registers -/

section Widths

variable {ws : Widths} {u : Temps} (hu : u.inWidth ws)
include hu

theorem inWidth_bind {b c : Nat} (hb : b < ws.memSize) (hc : c < ws.wordSize) : Temps.inWidth ws { u with b := b, cap := c } := by
  obtain ⟨-, -, hrest⟩ := hu
  exact ⟨hb, hc, hrest⟩

theorem inWidth_sw {x : Nat} (hx : x < ws.wordSize) : Temps.inWidth ws { u with sw := x } := by
  obtain ⟨hb, hc, -, hrest⟩ := hu
  exact ⟨hb, hc, hx, hrest⟩

theorem inWidth_sr {x : Nat} (hx : x < ws.wordSize) : Temps.inWidth ws { u with sr := x } := by
  obtain ⟨hb, hc, hsw, -, hrest⟩ := hu
  exact ⟨hb, hc, hsw, hx, hrest⟩

theorem inWidth_n {x : Nat} (hx : x < ws.wordSize) : Temps.inWidth ws { u with n := x } := by
  obtain ⟨hb, hc, hsw, hsr, -, hrest⟩ := hu
  exact ⟨hb, hc, hsw, hsr, hx, hrest⟩

theorem inWidth_plan {n c1 : Nat} (hn : n < ws.wordSize) (hc1 : c1 < ws.wordSize) :
    Temps.inWidth ws { u with n := n, c1 := c1, i := 0 } := by
  obtain ⟨hb, hc, hsw, hsr, -, -, -, hs0⟩ := hu
  exact ⟨hb, hc, hsw, hsr, hn, hc1, wordSize_pos ws, hs0⟩

theorem inWidth_i {x : Nat} (hx : x < ws.wordSize) : Temps.inWidth ws { u with i := x } := by
  obtain ⟨hb, hc, hsw, hsr, hn, hc1, -, hs0⟩ := hu
  exact ⟨hb, hc, hsw, hsr, hn, hc1, hx, hs0⟩

theorem inWidth_s0 {x : Nat} (hx : x < ws.wordSize) : Temps.inWidth ws { u with s0 := x } := by
  obtain ⟨hb, hc, hsw, hsr, hn, hc1, hi, -⟩ := hu
  exact ⟨hb, hc, hsw, hsr, hn, hc1, hi, hx⟩

theorem inWidth_t (x : Byte) : Temps.inWidth ws { u with t := x } := hu

end Widths

theorem InvAt.tmpFits {s : State} (h : InvAt s) : s.me.tmp.inWidth s.widths := ((inWidth_iff _ _).mp h.meFits).2.2

theorem firstLoad_inWidth {s : State} (h : InvAt s) (o : SnapOrder) : (firstLoad o s).inWidth s.widths := by
  cases o
  · exact inWidth_sw h.tmpFits h.shared.wpos
  · exact inWidth_sr h.tmpFits h.shared.rpos

theorem secondLoad_inWidth {s : State} (h : InvAt s) (o : SnapOrder) : (secondLoad o s).inWidth s.widths := by
  cases o
  · exact inWidth_sr h.tmpFits h.shared.rpos
  · exact inWidth_sw h.tmpFits h.shared.wpos

/-! ### The stepping port after its micro-step -/

/-- The stepping port after a micro-step of `i` from `s`: its registers fit, and it is idle or at the next micro-step,
where the command can be. -/
structure PortKept (s : State) (i : Instr) (t : State) : Prop where
  fits : t.me.inWidth s.widths
  progress : t.me.phase = .idle ∨ (t.me.phase = s.me.phase.succ ∧ s.bound = true ∧ t.me.tmp.b = s.base ∧
    t.me.tmp.cap = s.cap ∧ progressOk s.widths.memSize i (s.mu + 1) t.me.tmp)

section PortKept

variable {s : State} {i : Instr} (h : InvAt s)
include h

/-- A micro-step that goes on, whatever it does to the shared state. -/
theorem PortKept.of_goOn {s' : State} {u : Temps} (hs' : s'.me = s.me) (hu : u.inWidth s.widths) (hb : s.bound = true)
    (hub : u.b = s.base) (huc : u.cap = s.cap) (hp : progressOk s.widths.memSize i (s.mu + 1) u) :
    PortKept s i (s'.goOn u) := by
  obtain ⟨hops, hres, -⟩ := (inWidth_iff _ _).mp h.meFits
  refine ⟨(inWidth_iff _ _).mpr ?_, .inr ?_⟩
  · simpa [hs'] using ⟨hops, hres, hu⟩
  · simpa [hs'] using ⟨hb, hub, huc, hp⟩

/-- A micro-step that completes. -/
theorem PortKept.of_complete {s' : State} {u : Temps} {r : Nat} {a : Option Nat} (hs' : s'.me = { s.me with tmp := u })
    (hu : u.inWidth s.widths) (hr : r < s.widths.wordSize) (ha : addrResult a < s.widths.memSize) :
    PortKept s i (s'.complete r a) := by
  obtain ⟨hops, -, -⟩ := (inWidth_iff _ _).mp h.meFits
  refine ⟨(inWidth_iff _ _).mpr ?_, .inl (by simp)⟩
  simpa [hs'] using ⟨hops, ⟨hr, ha⟩, hu⟩

theorem PortKept.of_count {r : Nat} (hr : r < s.widths.wordSize) : PortKept s i (s.complete r none) :=
  .of_complete h rfl h.tmpFits hr (memSize_pos _)

theorem PortKept.of_completeZero {s' : State} (hs' : s'.me = s.me) : PortKept s i s'.completeZero :=
  .of_complete h (u := s.me.tmp) hs' h.tmpFits (wordSize_pos _) (memSize_pos _)

theorem PortKept.of_zeroWith {u : Temps} (hu : u.inWidth s.widths) :
    PortKept s i (s.setMe { s.me with tmp := u }).completeZero :=
  .of_complete h (by simp) hu (wordSize_pos _) (memSize_pos _)

theorem PortKept.of_readyCheck (hmu : s.mu = 1)
    (hp : progressOk s.widths.memSize i 2 { s.me.tmp with b := s.base, cap := s.cap }) : PortKept s i (readyCheck s) := by
  obtain ⟨-, e⟩ | ⟨hb, e⟩ := readyCheck_cases s <;> rw [e]
  · exact .of_completeZero h rfl
  · exact .of_goOn h rfl (inWidth_bind h.tmpFits h.shared.base h.shared.cap) hb rfl rfl (by rwa [hmu])

/-- The temporaries as they were, at the next micro-step. -/
theorem PortKept.of_same {s' : State} (r : Running s i) (hs' : s'.me = s.me) (h2 : 2 ≤ s.mu)
    (hp : progressOk s.widths.memSize i s.mu s.me.tmp → progressOk s.widths.memSize i (s.mu + 1) s.me.tmp) :
    PortKept s i (s'.goOn s.me.tmp) := by
  obtain ⟨hb, hub, huc, hprogress⟩ := r.latched h2
  exact .of_goOn h hs' h.tmpFits hb hub huc (hp hprogress)

/-! The shared shapes of command. -/

theorem snapshotQuery_kept {f : Temps → Nat} {t : State} (r : Running s i)
    (hi : ∀ k u, progressOk s.widths.memSize i k u ↔ k ≤ 4 ∧ loadedInRange (k - 2) u)
    (hf : ∀ u : Temps, u.sw < u.cap → u.sr < u.cap → f u < u.cap) (hx : snapshotQuery Config.snapOrder f s = .next t) :
    PortKept s i t := by
  obtain ⟨hmu, rfl⟩ | ⟨hmu, rfl⟩ | ⟨hmu, rfl⟩ | ⟨hmu, rfl⟩ := snapshotQuery_next hx
  · exact .of_readyCheck h hmu ((hi _ _).mpr ⟨by decide, loadedInRange_zero _⟩)
  all_goals
    obtain ⟨hb, hub, huc, hp⟩ := r.latched (by omega)
    obtain ⟨-, hloaded⟩ := (hi _ _).mp hp
    rw [hmu] at hloaded
  · refine .of_goOn h rfl (firstLoad_inWidth h _) hb (by simpa using hub) (by simpa using huc) ((hi _ _).mpr ⟨by omega, ?_⟩)
    rw [hmu]
    exact loadedInRange_firstLoad (h.usable hb) huc
  · refine .of_goOn h rfl (secondLoad_inWidth h _) hb (by simpa using hub) (by simpa using huc) ((hi _ _).mpr ⟨by omega, ?_⟩)
    rw [hmu, loadedInRange_iff (by decide)]
    simpa [huc] using secondLoad_lt (h.usable hb) huc hloaded
  · obtain ⟨hsw, hsr⟩ := (loadedInRange_iff (by decide) _).mp hloaded
    exact .of_count h ((hf _ hsw hsr).trans (by rw [huc]; exact h.shared.cap))

theorem addressQuery_kept {load : State → Temps} {ix : Temps → Nat} {t : State} (r : Running s i)
    (hi : ∀ k u, progressOk s.widths.memSize i k u ↔ k ≤ 3 ∧ (3 ≤ k → ix u < u.cap))
    (hload : (load s).inWidth s.widths ∧ (load s).b = s.me.tmp.b ∧ (load s).cap = s.me.tmp.cap)
    (hix : Usable s → ix (load s) < s.cap) (hx : addressQuery load ix s = .next t) : PortKept s i t := by
  obtain ⟨hmu, rfl⟩ | ⟨hmu, rfl⟩ | ⟨hmu, rfl⟩ := addressQuery_next hx
  · exact .of_readyCheck h hmu ((hi _ _).mpr ⟨by decide, by omega⟩)
  all_goals
    obtain ⟨hb, hub, huc, hp⟩ := r.latched (by omega)
  · obtain ⟨hfits, hlb, hlc⟩ := hload
    refine .of_goOn h rfl hfits hb (hlb.trans hub) (hlc.trans huc) ((hi _ _).mpr ⟨by omega, fun _ => ?_⟩)
    rw [hlc, huc]
    exact hix (h.usable hb)
  · have hindex := ((hi _ _).mp hp).2 (by omega)
    obtain ⟨-, -, -, hregion⟩ := h.usable hb
    exact .of_complete h rfl h.tmpFits (wordSize_pos _) (by simp only [addrResult, Option.getD_some]; omega)

/-- Up to the first load of its snapshot a command that checks an argument carries the check's answer (R116). -/
theorem argsOk_kept {ok : Bool} {t : State} (r : Running s i) (hi : argsOk i = some ok)
    (hprogress : ∀ k u, k ≤ 4 → (progressOk s.widths.memSize i k u ↔ (3 ≤ k → ok = true) ∧ loadedInRange (k - 3) u))
    (h3 : s.mu ≤ 3) (hx : exec i s = .next t) : PortKept s i t := by
  have h1 := r.one_le
  obtain hmu | hmu | hmu : s.mu = 1 ∨ s.mu = 2 ∨ s.mu = 3 := by omega
  · have hready := exec_of_atMu_one (i := i) (atMu_of_mu hmu (by decide)) (by rintro _ _ rfl; cases hi)
      (by rintro rfl; cases hi) (by rintro rfl; cases hi) (by rintro _ rfl; cases hi)
    obtain rfl := Host.Outcome.next.inj (hready.symm.trans hx)
    exact .of_readyCheck h hmu ((hprogress _ _ (by decide)).mpr ⟨by omega, loadedInRange_zero _⟩)
  all_goals
    obtain ⟨hb, hub, huc, hp⟩ := r.latched (by omega)
    obtain ⟨hargs, hloaded⟩ := (hprogress _ _ (by omega)).mp hp
  · obtain rfl := Host.Outcome.next.inj ((exec_of_atMu_two hi (atMu_of_mu hmu (by decide))).symm.trans hx)
    obtain ⟨-, e⟩ | ⟨hok, e⟩ := argCheck_cases ok s <;> rw [e]
    · exact .of_completeZero h rfl
    · refine .of_goOn h rfl h.tmpFits hb hub huc ((hprogress _ _ (by omega)).mpr ⟨fun _ => hok, ?_⟩)
      rw [hmu]
      exact loadedInRange_zero _
  · obtain rfl := Host.Outcome.next.inj ((exec_of_atMu_three hi (atMu_of_mu hmu (by decide))).symm.trans hx)
    refine .of_goOn h rfl (firstLoad_inWidth h _) hb (by simpa using hub) (by simpa using huc)
      ((hprogress _ _ (by omega)).mpr ⟨fun _ => hargs (by omega), ?_⟩)
    rw [hmu]
    exact loadedInRange_firstLoad (h.usable hb) huc

end PortKept

/-! ### The index moves past their first load -/

/-- Where an index move may be, and what its temporaries hold there. -/
def moveOk (len : Nat) (avail : Temps → Nat) (k : Nat) (u : Temps) : Prop :=
  k ≤ 7 ∧ (3 ≤ k → countArgOk len = true) ∧ loadedInRange (k - 3) u ∧ (5 ≤ k → 1 ≤ u.n ∧ u.n = min len (avail u))

theorem moveOk_succ {len : Nat} {avail : Temps → Nat} {k : Nat} {u : Temps} (h : moveOk len avail k u) (h5 : 5 ≤ k)
    (h6 : k ≤ 6) : moveOk len avail (k + 1) u := by
  obtain ⟨-, hargs, hloaded, hn⟩ := h
  rw [loadedInRange_iff (by omega)] at hloaded
  exact ⟨by omega, fun _ => hargs (by omega), (loadedInRange_iff (by omega) u).mpr hloaded, fun _ => hn h5⟩

theorem indexMove_kept {s t : State} {i : Instr} {len : Nat} {avail : Temps → Nat} {store : State → State} {e : EventKind}
    (h : InvAt s) (r : Running s i) (hargs : argsOk i = some (countArgOk len))
    (hexec : exec i s = indexMove Config.snapOrder len avail store e s)
    (hi : ∀ k u, progressOk s.widths.memSize i k u ↔ moveOk len avail k u)
    (havail : ∀ u n, avail { u with n := n } = avail u) (hlt : ∀ u : Temps, u.sw < u.cap → u.sr < u.cap → avail u < u.cap)
    (hstore : ∃ s' : State, s'.me = s.me ∧ store s = s'.goOn s.me.tmp) (hx : exec i s = .next t) : PortKept s i t := by
  by_cases h3 : s.mu ≤ 3
  · refine argsOk_kept h r hargs (fun k u hk => ?_) h3 hx
    rw [hi]
    exact ⟨fun ⟨_, ha, hl, _⟩ => ⟨ha, hl⟩, fun ⟨ha, hl⟩ => ⟨by omega, ha, hl, by omega⟩⟩
  obtain ⟨hb, hub, huc, hp⟩ := r.latched (by omega)
  have hmove := (hi _ _).mp hp
  have ⟨_, hok, hloaded, hn⟩ := hmove
  rw [hexec] at hx
  obtain ⟨hmu, -⟩ | ⟨hmu, -⟩ | ⟨hmu, -⟩ | ⟨hmu, rfl⟩ | ⟨hmu, rfl⟩ | ⟨hmu, rfl⟩ | ⟨hmu, rfl⟩ := indexMove_next hx
  iterate 3 omega
  · rw [hmu] at hloaded
    obtain ⟨hsw, hsr⟩ := secondLoad_lt (h.usable hb) huc hloaded
    obtain ⟨hzero, e⟩ | ⟨hpos, e⟩ := planCount_cases len avail (secondLoad Config.snapOrder s) s <;> rw [e]
    · exact .of_zeroWith h (secondLoad_inWidth h _)
    · have hcap : (secondLoad Config.snapOrder s).cap = s.cap := by simpa using huc
      have havl := hlt (secondLoad Config.snapOrder s) (by rwa [hcap]) (by rwa [hcap])
      have hwidth := h.shared.cap
      refine .of_goOn h rfl (inWidth_n (secondLoad_inWidth h _) (by omega)) hb (by simpa using hub) hcap ((hi _ _).mpr ?_)
      refine ⟨by omega, fun _ => hok (by omega), ?_, fun _ => ⟨Nat.pos_of_ne_zero hpos, ?_⟩⟩
      · rw [hmu, loadedInRange_iff (by decide)]
        simpa [huc] using ⟨hsw, hsr⟩
      · exact (congrArg (min len) (havail _ _)).symm
  · obtain ⟨s', hs', e⟩ := hstore
    rw [e]
    exact .of_same h r hs' (by omega) fun _ => (hi _ _).mpr (moveOk_succ hmove (by omega) (by omega))
  · exact .of_same h r (emit_me s e _) (by omega) fun _ => (hi _ _).mpr (moveOk_succ hmove (by omega) (by omega))
  · exact .of_count h h.tmpFits.2.2.2.2.1

/-! ### The copies past their first load -/

theorem copyOk_plan {size extra n start : Nat} {buf : Option Nat} {u : Temps} (hn : n ≠ 0) (hs : start < u.cap)
    (hlt : n < u.cap) (hfits : ptrAddr buf + n ≤ size) (hov : rangesOverlap (ptrAddr buf) n u.b u.cap = false) :
    copyOk size extra 5 buf start { u with n := n, c1 := firstSegment start n u.cap, i := 0 } :=
  ⟨Nat.pos_of_ne_zero hn, hs, hlt, rfl, hfits, hov, .inl ⟨Nat.pos_of_ne_zero hn, .inl rfl⟩⟩

section CopyOk

variable {size extra k start : Nat} {buf : Option Nat} {u : Temps} (h : copyOk size extra k buf start u)
include h

theorem copyOk_read (hst : copyStage k u.i u.n = .rd) (v : Byte) : copyOk size extra (k + 1) buf start { u with t := v } := by
  obtain ⟨hi, hk⟩ := copyStage_rd hst
  obtain ⟨hn, hs, hlt, hc1, hfits, hov, -⟩ := h
  exact ⟨hn, hs, hlt, hc1, hfits, hov, .inl ⟨hi, .inr (by simp only; omega)⟩⟩

theorem copyOk_write (hst : copyStage k u.i u.n = .wr) : copyOk size extra (k + 1) buf start { u with i := u.i + 1 } := by
  obtain ⟨hi, hk⟩ := copyStage_wr hst
  obtain ⟨hn, hs, hlt, hc1, hfits, hov, -⟩ := h
  refine ⟨hn, hs, hlt, hc1, hfits, hov, ?_⟩
  simp only
  omega

theorem copyOk_post {m : Nat} (hst : copyStage k u.i u.n = .post m) (hm : m < extra) :
    copyOk size extra (k + 1) buf start u := by
  obtain ⟨hi, hk⟩ := copyStage_post hst
  obtain ⟨hn, hs, hlt, hc1, hfits, hov, -⟩ := h
  exact ⟨hn, hs, hlt, hc1, hfits, hov, .inr ⟨hi, by omega, by omega⟩⟩

end CopyOk

/-- Where a copy command may be: what WRITE's, READ's and PEEK's cases of `progressOk` have in common. `counts` is what
the command asks of its temporaries from `μ5` on, `start` its start index. -/
def copyingOk (size extra : Nat) (p : Option Nat) (len : Nat) (counts : Temps → Prop) (start : Temps → Nat) (k : Nat)
    (u : Temps) : Prop :=
  (3 ≤ k → transferArgsOk p len = true) ∧ loadedInRange (k - 3) u ∧
    (5 ≤ k → counts u ∧ copyOk size extra k p (start u) u)

section Copying

variable {s t : State} {i : Instr} {extra len : Nat} {p : Option Nat} {counts : Temps → Prop} {start : Temps → Nat}
  (h : InvAt s) (r : Running s i)
  (hi : ∀ k u, progressOk s.widths.memSize i k u ↔ copyingOk s.widths.memSize extra p len counts start k u)
include h r hi

theorem copying_kept_of_argsOk (hargs : argsOk i = some (transferArgsOk p len)) (h3 : s.mu ≤ 3) (hx : exec i s = .next t) :
    PortKept s i t := by
  refine argsOk_kept h r hargs (fun k u hk => ?_) h3 hx
  rw [hi]
  exact ⟨fun ⟨ha, hl, _⟩ => ⟨ha, hl⟩, fun ⟨ha, hl⟩ => ⟨ha, hl, by omega⟩⟩

/-- The plan of `n` bytes from region index `start`, on temporaries that hold the snapshot. -/
theorem copying_kept_of_plan {n st : Nat} {u : Temps} (hmu : s.mu = 4) (hu : u.inWidth s.widths) (hub : u.b = s.me.tmp.b)
    (huc : u.cap = s.me.tmp.cap) (hsw : u.sw < u.cap) (hsr : u.sr < u.cap) (hst : st < u.cap) (hn : n < u.cap)
    (hcounts : counts { u with n := n, c1 := firstSegment st n u.cap, i := 0 })
    (hstart : start { u with n := n, c1 := firstSegment st n u.cap, i := 0 } = st)
    (hx : planCopy p n st u s = .next t) : PortKept s i t := by
  obtain ⟨hb, hbase, hcap, hp⟩ := r.latched (by omega)
  obtain ⟨hargs, -, -⟩ := (hi _ _).mp hp
  obtain ⟨-, rfl⟩ | ⟨hne, hfits, hov, rfl⟩ := planCopy_next hx
  · exact .of_zeroWith h hu
  · have hwidth := h.shared.cap
    have hc1 : firstSegment st n u.cap < s.widths.wordSize := by
      unfold firstSegment
      omega
    refine .of_goOn h rfl (inWidth_plan hu (by omega) hc1) hb (hub.trans hbase) (huc.trans hcap) ((hi _ _).mpr ?_)
    refine ⟨fun _ => hargs (by omega), (loadedInRange_iff (by omega) _).mpr ⟨hsw, hsr⟩, fun _ => ⟨hcounts, ?_⟩⟩
    rw [hstart, hmu]
    exact copyOk_plan hne hst hn hfits hov

/-- The loop, and what follows it: the command is a copy in flight at every micro-step from `μ5` on. -/
theorem copying_kept_of_stage (h5 : 5 ≤ s.mu)
    (hkeep : ∀ (u : Temps) (x : Byte) (j : Nat), (counts u → counts { u with t := x } ∧ counts { u with i := j }) ∧
      start { u with t := x } = start u ∧ start { u with i := j } = start u)
    (hx : (∃ a, s.copyStage = .rd ∧ copyRead a s = .next t) ∨ (∃ a, s.copyStage = .wr ∧ copyWrite a s = .next t) ∨
      (∃ (m : Nat) (s' : State), s.copyStage = .post m ∧ m < extra ∧ s'.me = s.me ∧ t = s'.goOn s.me.tmp) ∨
      t = s.complete s.me.tmp.n none) : PortKept s i t := by
  obtain ⟨hb, hbase, hcap, hp⟩ := r.latched (by omega)
  obtain ⟨hargs, hloaded, hcopying⟩ := (hi _ _).mp hp
  obtain ⟨hcounts, hcopy⟩ := hcopying h5
  have hloaded := (loadedInRange_iff (by omega) _).mp hloaded
  have hargs : 3 ≤ s.mu + 1 → transferArgsOk p len = true := fun _ => hargs (by omega)
  have hwidth := h.shared.cap
  obtain ⟨hkept, hst, hsi⟩ := hkeep s.me.tmp (s.mem.load 0) (s.me.tmp.i + 1)
  obtain ⟨a, hrd, hx⟩ | ⟨a, hwr, hx⟩ | ⟨m, s', hpost, hm, hs', rfl⟩ | rfl := hx
  · obtain ⟨-, rfl⟩ := copyRead_next hx
    obtain ⟨hkept, hst, -⟩ := hkeep s.me.tmp (s.mem.load a) 0
    refine .of_goOn h rfl (inWidth_t h.tmpFits _) hb hbase hcap ((hi _ _).mpr ⟨hargs, ?_, fun _ => ⟨(hkept hcounts).1, ?_⟩⟩)
    · exact (loadedInRange_iff (by omega) _).mpr hloaded
    · rw [hst]
      exact copyOk_read hcopy hrd _
  · obtain ⟨-, rfl⟩ := copyWrite_next hx
    obtain ⟨hilt, -⟩ := copyStage_wr hwr
    obtain ⟨-, -, hnlt, -⟩ := hcopy
    refine .of_goOn h rfl (inWidth_i h.tmpFits (by omega)) hb hbase hcap ((hi _ _).mpr ⟨hargs, ?_, fun _ => ⟨(hkept hcounts).2, ?_⟩⟩)
    · exact (loadedInRange_iff (by omega) _).mpr hloaded
    · rw [hsi]
      exact copyOk_write ((hcopying h5).2) hwr
  · exact .of_same h r hs' (by omega) fun _ => (hi _ _).mpr
      ⟨hargs, (loadedInRange_iff (by omega) _).mpr hloaded, fun _ => ⟨hcounts, copyOk_post hcopy hpost hm⟩⟩
  · exact .of_count h h.tmpFits.2.2.2.2.1

end Copying

section CopyCommands

variable {s t : State} {p : Option Nat} {len skip : Nat} (h : InvAt s)
include h

theorem write_kept (r : Running s (.write p len)) (hx : exec (.write p len) s = .next t) : PortKept s (.write p len) t := by
  have hi : ∀ k u, progressOk s.widths.memSize (.write p len) k u ↔
      copyingOk s.widths.memSize 2 p len (fun u => u.n = min len u.freeSpace) Temps.sw k u := fun _ _ => Iff.rfl
  obtain h3 | hmu | h5 : s.mu ≤ 3 ∨ s.mu = 4 ∨ 5 ≤ s.mu := by omega
  · exact copying_kept_of_argsOk h r hi rfl h3 hx
  · obtain ⟨hb, -, hcap, -, hloaded, -⟩ := r.latched (by omega)
    rw [hmu] at hloaded
    obtain ⟨hsw, hsr⟩ := secondLoad_lt (h.usable hb) hcap hloaded
    have huc : (secondLoad Config.snapOrder s).cap = s.cap := by simpa using hcap
    rw [exec_write_of_atMu_four (atMu_of_mu hmu (by decide))] at hx
    rw [← huc] at hsw hsr
    have hlt : (secondLoad Config.snapOrder s).freeSpace < (secondLoad Config.snapOrder s).cap := freeSpace_lt hsw
    exact copying_kept_of_plan h r hi hmu (secondLoad_inWidth h _) (secondLoad_b _ _) (secondLoad_cap _ _) hsw hsr hsw
      (by unfold writeLength; omega) rfl rfl hx
  · refine copying_kept_of_stage h r hi h5 (fun u x j => ⟨fun hc => ⟨hc, hc⟩, rfl, rfl⟩) ?_
    rw [exec, execWrite, writeStep_of_five_le h5] at hx
    obtain ⟨hst, hx⟩ | ⟨hst, hx⟩ | ⟨hst, rfl⟩ | ⟨hst, rfl⟩ | ⟨-, rfl⟩ := writeLoop_next hx
    · exact .inl ⟨_, hst, hx⟩
    · exact .inr (.inl ⟨_, hst, hx⟩)
    · exact .inr (.inr (.inl ⟨0, _, hst, by decide, by simp, rfl⟩))
    · exact .inr (.inr (.inl ⟨1, _, hst, by decide, emit_me s _ _, rfl⟩))
    · exact .inr (.inr (.inr rfl))

theorem read_kept (r : Running s (.read p len)) (hx : exec (.read p len) s = .next t) : PortKept s (.read p len) t := by
  have hi : ∀ k u, progressOk s.widths.memSize (.read p len) k u ↔
      copyingOk s.widths.memSize 2 p len (fun u => u.n = min len u.usedSpace) Temps.sr k u := fun _ _ => Iff.rfl
  obtain h3 | hmu | h5 : s.mu ≤ 3 ∨ s.mu = 4 ∨ 5 ≤ s.mu := by omega
  · exact copying_kept_of_argsOk h r hi rfl h3 hx
  · obtain ⟨hb, -, hcap, -, hloaded, -⟩ := r.latched (by omega)
    rw [hmu] at hloaded
    obtain ⟨hsw, hsr⟩ := secondLoad_lt (h.usable hb) hcap hloaded
    have huc : (secondLoad Config.snapOrder s).cap = s.cap := by simpa using hcap
    rw [exec_read_of_atMu_four (atMu_of_mu hmu (by decide))] at hx
    rw [← huc] at hsw hsr
    have hlt : (secondLoad Config.snapOrder s).usedSpace < (secondLoad Config.snapOrder s).cap := usedSpace_lt hsw hsr
    exact copying_kept_of_plan h r hi hmu (secondLoad_inWidth h _) (secondLoad_b _ _) (secondLoad_cap _ _) hsw hsr hsr
      (by unfold readLength; omega) rfl rfl hx
  · refine copying_kept_of_stage h r hi h5 (fun u x j => ⟨fun hc => ⟨hc, hc⟩, rfl, rfl⟩) ?_
    rw [exec, execRead, readStep_of_five_le h5] at hx
    obtain ⟨hst, hx⟩ | ⟨hst, hx⟩ | ⟨hst, rfl⟩ | ⟨hst, rfl⟩ | ⟨-, rfl⟩ := readLoop_next hx
    · exact .inl ⟨_, hst, hx⟩
    · exact .inr (.inl ⟨_, hst, hx⟩)
    · exact .inr (.inr (.inl ⟨0, _, hst, by decide, by simp, rfl⟩))
    · exact .inr (.inr (.inl ⟨1, _, hst, by decide, emit_me s _ _, rfl⟩))
    · exact .inr (.inr (.inr rfl))

theorem peek_kept (r : Running s (.peek p len skip)) (hx : exec (.peek p len skip) s = .next t) :
    PortKept s (.peek p len skip) t := by
  have hi : ∀ k u, progressOk s.widths.memSize (.peek p len skip) k u ↔
      copyingOk s.widths.memSize 0 p len (fun u => skip < u.usedSpace ∧ u.n = min len (u.usedSpace - skip) ∧
        u.s0 = adv u.sr skip u.cap) Temps.s0 k u := fun _ _ => by simp only [progressOk, copyingOk, and_assoc]
  obtain h3 | hmu | h5 : s.mu ≤ 3 ∨ s.mu = 4 ∨ 5 ≤ s.mu := by omega
  · exact copying_kept_of_argsOk h r hi rfl h3 hx
  · obtain ⟨hb, -, hcap, -, hloaded, -⟩ := r.latched (by omega)
    rw [hmu] at hloaded
    obtain ⟨hsw, hsr⟩ := secondLoad_lt (h.usable hb) hcap hloaded
    have huc : (secondLoad Config.snapOrder s).cap = s.cap := by simpa using hcap
    rw [exec_peek_of_atMu_four (atMu_of_mu hmu (by decide))] at hx
    obtain ⟨-, rfl⟩ | ⟨hguard, hx⟩ := planPeek_next hx
    · exact .of_zeroWith h (secondLoad_inWidth h _)
    rw [← huc] at hsw hsr
    have hlt : (secondLoad Config.snapOrder s).usedSpace < (secondLoad Config.snapOrder s).cap := usedSpace_lt hsw hsr
    have hs0 : peekStart skip (secondLoad Config.snapOrder s) < (secondLoad Config.snapOrder s).cap := adv_lt hsr (by omega)
    have hwidth : peekStart skip (secondLoad Config.snapOrder s) < s.widths.wordSize :=
      hs0.trans (by rw [huc]; exact h.shared.cap)
    exact copying_kept_of_plan h r hi hmu (inWidth_s0 (secondLoad_inWidth h _) hwidth) (secondLoad_b _ _)
      (secondLoad_cap _ _) hsw hsr hs0 (by unfold peekLength; simp only; omega) ⟨hguard, rfl, rfl⟩ rfl hx
  · refine copying_kept_of_stage h r hi h5 (fun u x j => ⟨fun hc => ⟨hc, hc⟩, rfl, rfl⟩) ?_
    rw [exec, execPeek, peekStep_of_five_le h5] at hx
    obtain ⟨hst, hx⟩ | ⟨hst, hx⟩ | ⟨-, rfl⟩ := peekLoop_next hx
    · exact .inl ⟨_, hst, hx⟩
    · exact .inr (.inl ⟨_, hst, hx⟩)
    · exact .inr (.inr (.inr rfl))

end CopyCommands

end Sys2Proof.Machine

namespace Sys2Proof.Machine

/-! ### Every command keeps its port -/

theorem exec_kept {s t : State} {i : Instr} (h : InvAt s) (r : Running s i) (hx : exec i s = .next t) : PortKept s i t := by
  have hone : boolResult true < s.widths.wordSize := one_lt_wordSize h.shared.one_le
  cases i with
  | init region cap =>
    obtain ⟨-, rfl⟩ | ⟨-, a, -, -, rfl⟩ := exec_init_answer hx
    · exact .of_completeZero h rfl
    · exact .of_complete h (u := s.me.tmp) (by simp) h.tmpFits hone (memSize_pos _)
  | isready =>
    obtain ⟨-, rfl⟩ := execIsready_next hx
    refine .of_count h ?_
    cases s.bound
    · exact wordSize_pos _
    · exact hone
  | detach =>
    obtain ⟨-, ⟨-, rfl⟩ | ⟨-, -, rfl⟩⟩ := execDetach_next hx
    · exact .of_completeZero h rfl
    · exact .of_completeZero h (by simp)
  | setntfy handle =>
    obtain ⟨-, ⟨-, rfl⟩ | ⟨-, rfl⟩⟩ := execSetntfy_next hx
    · exact .of_completeZero h rfl
    · exact .of_completeZero h (by simp)
  | free => exact snapshotQuery_kept h r (fun _ _ => Iff.rfl) (fun u hw _ => freeSpace_lt hw) hx
  | used => exact snapshotQuery_kept h r (fun _ _ => Iff.rfl) (fun u hw hr => usedSpace_lt hw hr) hx
  | lrlen => exact snapshotQuery_kept h r (fun _ _ => Iff.rfl) (fun u hw _ => linRead_lt hw) hx
  | lwlen => exact snapshotQuery_kept h r (fun _ _ => Iff.rfl) (fun u hw hr => linWrite_lt hw hr) hx
  | lraddr =>
    exact addressQuery_kept (load := fun s => { s.me.tmp with sr := s.rpos }) (ix := Temps.sr) h r (fun _ _ => Iff.rfl)
      ⟨inWidth_sr h.tmpFits h.shared.rpos, rfl, rfl⟩ (fun hu => hu.2.2.1) hx
  | lwaddr =>
    exact addressQuery_kept (load := fun s => { s.me.tmp with sw := s.wpos }) (ix := Temps.sw) h r (fun _ _ => Iff.rfl)
      ⟨inWidth_sw h.tmpFits h.shared.wpos, rfl, rfl⟩ (fun hu => hu.2.1) hx
  | write p len => exact write_kept h r hx
  | read p len => exact read_kept h r hx
  | peek p len skip => exact peek_kept h r hx
  | skip len =>
    exact indexMove_kept h r rfl rfl (fun _ _ => Iff.rfl) (fun _ _ => rfl) (fun u hw hr => usedSpace_lt hw hr)
      ⟨{ s with rpos := adv s.me.tmp.sr s.me.tmp.n s.me.tmp.cap }, by simp, rfl⟩ hx
  | advance len =>
    exact indexMove_kept h r rfl rfl (fun _ _ => Iff.rfl) (fun _ _ => rfl) (fun u hw _ => freeSpace_lt hw)
      ⟨{ s with wpos := adv s.me.tmp.sw s.me.tmp.n s.me.tmp.cap }, by simp, rfl⟩ hx
  | reset =>
    have hsucc (h3 : s.mu ≤ 3) : progressOk s.widths.memSize .reset (s.mu + 1) s.me.tmp := by
      show s.mu + 1 ≤ 4
      omega
    obtain ⟨hmu, rfl⟩ | ⟨hmu, -, rfl⟩ | ⟨hmu, rfl⟩ | ⟨-, rfl⟩ := execReset_next hx
    · exact .of_readyCheck h hmu (by show 2 ≤ 4; decide)
    · exact .of_same h r (by simp) (by omega) fun _ => hsucc (by omega)
    · exact .of_same h r (emit_me s _ _) (by omega) fun _ => hsucc (by omega)
    · exact .of_completeZero h rfl

/-! ### The index stores -/

/-- WRITE or ADVANCE. -/
def MovesWpos (i : Instr) : Prop := (∃ p len, i = .write p len) ∨ (∃ len, i = .advance len)

/-- READ or SKIP. -/
def MovesRpos (i : Instr) : Prop := (∃ p len, i = .read p len) ∨ (∃ len, i = .skip len)

/-- `WPOS` changes at one micro-step of WRITE and of ADVANCE. -/
theorem wpos_store {i : Instr} {s t : State} (hx : exec i s = .next t) (hi : MovesWpos i) (hne : t.wpos ≠ s.wpos) :
    s.mu = storeMu i s.me.tmp ∧ t = storeWpos s := by
  obtain ⟨p, len, rfl⟩ | ⟨len, rfl⟩ := hi
  · obtain ⟨-, rfl⟩ | ⟨-, rfl⟩ | ⟨-, rfl⟩ | ⟨-, hx⟩ | ⟨-, hx⟩ := writeStep_next hx
    · exact absurd (PlainStep.frame (.ready rfl)).2.2.1.1 hne
    · exact absurd (argCheck_plain _ s).frame.2.2.1.1 hne
    · exact absurd (goOn_wpos s _) hne
    · exact absurd (planCopy_plain hx).frame.2.2.1.1 hne
    · obtain ⟨-, hx⟩ | ⟨-, hx⟩ | ⟨hst, rfl⟩ | ⟨-, rfl⟩ | ⟨-, rfl⟩ := writeLoop_next hx
      · exact absurd (by simp [(copyRead_next hx).2]) hne
      · exact absurd (by simp [(copyWrite_next hx).2]) hne
      · exact ⟨(copyStage_post hst).2, rfl⟩
      · exact absurd (by simp [emitStep]) hne
      · exact absurd (complete_wpos s _ _) hne
  · obtain ⟨-, rfl⟩ | ⟨-, rfl⟩ | ⟨-, rfl⟩ | ⟨-, rfl⟩ | ⟨hmu, rfl⟩ | ⟨-, rfl⟩ | ⟨-, rfl⟩ := indexMove_next hx
    · exact absurd (PlainStep.frame (.ready rfl)).2.2.1.1 hne
    · exact absurd (argCheck_plain _ s).frame.2.2.1.1 hne
    · exact absurd (goOn_wpos s _) hne
    · obtain ⟨-, e⟩ | ⟨-, e⟩ := planCount_cases len Temps.freeSpace (secondLoad Config.snapOrder s) s <;>
        exact absurd (by simp [e]) hne
    · exact ⟨hmu, rfl⟩
    · exact absurd (by simp [emitStep]) hne
    · exact absurd (complete_wpos s _ _) hne

/-- `RPOS` changes at one micro-step of READ and of SKIP. -/
theorem rpos_store {i : Instr} {s t : State} (hx : exec i s = .next t) (hi : MovesRpos i) (hne : t.rpos ≠ s.rpos) :
    s.mu = storeMu i s.me.tmp ∧ t = storeRpos s := by
  obtain ⟨p, len, rfl⟩ | ⟨len, rfl⟩ := hi
  · obtain ⟨-, rfl⟩ | ⟨-, rfl⟩ | ⟨-, rfl⟩ | ⟨-, hx⟩ | ⟨-, hx⟩ := readStep_next hx
    · exact absurd (PlainStep.frame (.ready rfl)).2.2.1.2 hne
    · exact absurd (argCheck_plain _ s).frame.2.2.1.2 hne
    · exact absurd (goOn_rpos s _) hne
    · exact absurd (planCopy_plain hx).frame.2.2.1.2 hne
    · obtain ⟨-, hx⟩ | ⟨-, hx⟩ | ⟨hst, rfl⟩ | ⟨-, rfl⟩ | ⟨-, rfl⟩ := readLoop_next hx
      · exact absurd (by simp [(copyRead_next hx).2]) hne
      · exact absurd (by simp [(copyWrite_next hx).2]) hne
      · exact ⟨(copyStage_post hst).2, rfl⟩
      · exact absurd (by simp [emitStep]) hne
      · exact absurd (complete_rpos s _ _) hne
  · obtain ⟨-, rfl⟩ | ⟨-, rfl⟩ | ⟨-, rfl⟩ | ⟨-, rfl⟩ | ⟨hmu, rfl⟩ | ⟨-, rfl⟩ | ⟨-, rfl⟩ := indexMove_next hx
    · exact absurd (PlainStep.frame (.ready rfl)).2.2.1.2 hne
    · exact absurd (argCheck_plain _ s).frame.2.2.1.2 hne
    · exact absurd (goOn_rpos s _) hne
    · obtain ⟨-, e⟩ | ⟨-, e⟩ := planCount_cases len Temps.usedSpace (secondLoad Config.snapOrder s) s <;>
        exact absurd (by simp [e]) hne
    · exact ⟨hmu, rfl⟩
    · exact absurd (by simp [emitStep]) hne
    · exact absurd (complete_rpos s _ _) hne

/-- What a command that moves an index holds from `μ5` on: a snapshot inside the ring, and a count clamped to it. -/
structure Clamped (s : State) (avail : Nat) : Prop where
  bound : s.bound = true
  cap : s.me.tmp.cap = s.cap
  sw : s.me.tmp.sw < s.cap
  sr : s.me.tmp.sr < s.cap
  n : s.me.tmp.n ≤ avail

theorem clamped_of_movesWpos {s : State} {i : Instr} (r : Running s i) (hi : MovesWpos i) (h5 : 5 ≤ s.mu) :
    Clamped s (freeSpace s.me.tmp.sw s.me.tmp.sr s.cap) := by
  obtain ⟨p, len, rfl⟩ | ⟨len, rfl⟩ := hi
  · obtain ⟨hb, -, hcap, -, hloaded, hloop⟩ := r.latched (by omega)
    obtain ⟨hn, -⟩ := hloop h5
    obtain ⟨hsw, hsr⟩ := (loadedInRange_iff (by omega) _).mp hloaded
    rw [Temps.freeSpace, hcap] at hn
    exact ⟨hb, hcap, hcap ▸ hsw, hcap ▸ hsr, by omega⟩
  · obtain ⟨hb, -, hcap, -, -, hloaded, hloop⟩ := r.latched (by omega)
    obtain ⟨-, hn⟩ := hloop h5
    obtain ⟨hsw, hsr⟩ := (loadedInRange_iff (by omega) _).mp hloaded
    rw [Temps.freeSpace, hcap] at hn
    exact ⟨hb, hcap, hcap ▸ hsw, hcap ▸ hsr, by omega⟩

theorem clamped_of_movesRpos {s : State} {i : Instr} (r : Running s i) (hi : MovesRpos i) (h5 : 5 ≤ s.mu) :
    Clamped s (usedSpace s.me.tmp.sw s.me.tmp.sr s.cap) := by
  obtain ⟨p, len, rfl⟩ | ⟨len, rfl⟩ := hi
  · obtain ⟨hb, -, hcap, -, hloaded, hloop⟩ := r.latched (by omega)
    obtain ⟨hn, -⟩ := hloop h5
    obtain ⟨hsw, hsr⟩ := (loadedInRange_iff (by omega) _).mp hloaded
    rw [Temps.usedSpace, hcap] at hn
    exact ⟨hb, hcap, hcap ▸ hsw, hcap ▸ hsr, by omega⟩
  · obtain ⟨hb, -, hcap, -, -, hloaded, hloop⟩ := r.latched (by omega)
    obtain ⟨-, hn⟩ := hloop h5
    obtain ⟨hsw, hsr⟩ := (loadedInRange_iff (by omega) _).mp hloaded
    rw [Temps.usedSpace, hcap] at hn
    exact ⟨hb, hcap, hcap ▸ hsw, hcap ▸ hsr, by omega⟩

theorem five_le_storeMu (i : Instr) (u : Temps) : 5 ≤ storeMu i u := by
  cases i <;> simp [storeMu]

section IndexBounds

variable {s t : State} {i : Instr} (h : InvAt s) (r : Running s i) (hx : exec i s = .next t)
include h r hx

/-- A stored write index is an index of the ring. -/
theorem exec_wpos_lt (hb : s.bound = true) : t.wpos < s.cap := by
  obtain ⟨-, hw, -, -⟩ := h.usable hb
  by_cases hne : t.wpos = s.wpos
  · omega
  obtain he | ⟨hi, -⟩ | ⟨-, he⟩ := exec_wpos_cases hx
  · exact absurd he hne
  · obtain ⟨hmu, rfl⟩ := wpos_store hx hi hne
    have hc := clamped_of_movesWpos r hi (hmu ▸ five_le_storeMu i _)
    have hlt := freeSpace_lt (r := s.me.tmp.sr) hc.sw
    have hn := hc.n
    simpa [storeWpos, hc.cap] using adv_lt hc.sw (by omega)
  · omega

/-- So is a stored read index. -/
theorem exec_rpos_lt (hb : s.bound = true) : t.rpos < s.cap := by
  obtain ⟨-, -, hr, -⟩ := h.usable hb
  by_cases hne : t.rpos = s.rpos
  · omega
  obtain he | ⟨hi, -⟩ | ⟨-, he⟩ := exec_rpos_cases hx
  · exact absurd he hne
  · obtain ⟨hmu, rfl⟩ := rpos_store hx hi hne
    have hc := clamped_of_movesRpos r hi (hmu ▸ five_le_storeMu i _)
    have hlt := usedSpace_lt hc.sw hc.sr
    have hn := hc.n
    simpa [storeRpos, hc.cap] using adv_lt hc.sr (by omega)
  · omega

end IndexBounds

end Sys2Proof.Machine

namespace Sys2Proof.Machine

/-! ### The shared state after a micro-step -/

/-- What a command's operands are on a port whose registers fit (R80, R88). -/
theorem encode_le_of_decode {p : Packet} {i : Instr} (h : decode p = .ok i) :
    (encode i).a0 ≤ p.a0 ∧ (encode i).a1 ≤ p.a1 := by
  rw [encodeOfDecodeIsThePacketUsed p i h]
  constructor <;> simp only <;> split <;> omega

/-- The binding is kept, or INIT or DETACH changes it with the other port at most issued (R226). -/
theorem exec_binding_or_quiescent {i : Instr} {s t : State} (hx : exec i s = .next t) :
    sameBinding s t ∨ (t.me.phase = .idle ∧ s.opposite.phase.mu ≤ 1) := by
  obtain plain | shared := exec_next hx
  · exact .inl plain.frame.1
  · have hmu (hq : otherInFlight s = false) : s.opposite.phase.mu ≤ 1 := by
      simp only [otherInFlight, decide_eq_false_iff_not] at hq
      omega
    cases shared with
    | init a cap _ _ _ _ hq ht => exact .inr ⟨by simp [ht], hmu hq⟩
    | detach _ _ hq ht => exact .inr ⟨by simp [ht], hmu hq⟩
    | _ => left; subst t; simp [sameBinding, storeWpos, storeRpos, emitStep]

section Shared

variable {s t : State} {i : Instr} (h : InvAt s) (r : Running s i) (hd : decode s.me.packet = .ok i)
  (hx : exec i s = .next t)

include h r hx in
/-- A ready buffer stays usable (R27, R51). -/
theorem exec_usable (hb : t.bound = true) : Usable t := by
  obtain ⟨-, -, hwidths, -⟩ := exec_surroundings hx
  have hkeep (hbinding : sameBinding s t) : Usable t := by
    obtain ⟨hbound, hbase, hcap⟩ := hbinding
    have hsb : s.bound = true := hbound ▸ hb
    obtain ⟨-, -, -, hregion⟩ := h.usable hsb
    exact ⟨hb, by rw [hcap]; exact exec_wpos_lt h r hx hsb, by rw [hcap]; exact exec_rpos_lt h r hx hsb,
      by rw [hbase, hcap, hwidths]; exact hregion⟩
  obtain hbinding | ⟨region, cap, rfl⟩ | rfl := exec_binding_cases hx
  · exact hkeep hbinding
  · obtain ⟨-, ⟨-, rfl⟩ | ⟨a, -, hc, hregion, -, rfl⟩⟩ := execInit_next hx
    · exact hkeep (completeZero_frame s).1
    · exact ⟨by simp, by simp; omega, by simp; omega, by simpa using hregion⟩
  · obtain ⟨hbound, -⟩ := exec_detach_effect hx
    rw [hbound] at hb
    cases hb

include h hd hx in
theorem exec_base_lt : t.base < s.widths.memSize ∧ t.cap < s.widths.wordSize := by
  have hbase := h.shared.base
  have hcap := h.shared.cap
  obtain ⟨-, ebase, ecap⟩ | ⟨region, cap, rfl⟩ | rfl := exec_binding_cases hx
  · exact ⟨ebase ▸ hbase, ecap ▸ hcap⟩
  · obtain ⟨-, rfl⟩ | ⟨-, a, rfl, -, rfl⟩ := exec_init_answer hx
    · simpa using ⟨hbase, hcap⟩
    · obtain ⟨h0, h1⟩ := encode_le_of_decode hd
      obtain ⟨⟨k0, k1, -⟩, -⟩ := (inWidth_iff _ _).mp h.meFits
      simpa using ⟨h0.trans_lt k0, h1.trans_lt k1⟩
  · obtain ⟨-, ebase, ecap, -⟩ := exec_detach_effect hx
    exact ⟨ebase ▸ hbase, ecap ▸ hcap⟩

include h hd hx in
theorem exec_nhnd_lt : t.nhnd < s.widths.memSize := by
  have hnhnd := h.shared.nhnd
  obtain ⟨-, e⟩ | ⟨region, cap, rfl⟩ | ⟨handle, rfl⟩ := exec_hook_cases hx
  · exact e ▸ hnhnd
  · obtain ⟨-, rfl⟩ | ⟨-, a, -, -, rfl⟩ := exec_init_answer hx <;> simpa using hnhnd
  · obtain ⟨-, ⟨-, rfl⟩ | ⟨-, rfl⟩⟩ := execSetntfy_next hx
    · simpa using hnhnd
    · cases handle with
      | none => simpa [setHook] using hnhnd
      | some x =>
        obtain ⟨h0, -⟩ := encode_le_of_decode hd
        obtain ⟨⟨k0, -⟩, -⟩ := (inWidth_iff _ _).mp h.meFits
        have hlt : x < s.widths.memSize := h0.trans_lt k0
        simpa [setHook] using hlt

include h r hx in
theorem exec_indices_lt : t.wpos < s.widths.wordSize ∧ t.rpos < s.widths.wordSize := by
  cases hb : s.bound with
  | true => exact ⟨(exec_wpos_lt h r hx hb).trans h.shared.cap, (exec_rpos_lt h r hx hb).trans h.shared.cap⟩
  | false =>
    have hnotRunning (h5 : 5 ≤ s.mu) : False := by
      obtain ⟨hbound, -⟩ := r.latched (by omega)
      simp [hb] at hbound
    constructor
    · by_cases hne : t.wpos = s.wpos
      · exact hne ▸ h.shared.wpos
      obtain he | ⟨hi, -⟩ | ⟨-, he⟩ := exec_wpos_cases hx
      · exact absurd he hne
      · exact (hnotRunning ((wpos_store hx hi hne).1 ▸ five_le_storeMu i _)).elim
      · exact he ▸ wordSize_pos _
    · by_cases hne : t.rpos = s.rpos
      · exact hne ▸ h.shared.rpos
      obtain he | ⟨hi, -⟩ | ⟨-, he⟩ := exec_rpos_cases hx
      · exact absurd he hne
      · exact (hnotRunning ((rpos_store hx hi hne).1 ▸ five_le_storeMu i _)).elim
      · exact he ▸ wordSize_pos _

include h hx in
theorem exec_evq_fits : ∀ e ∈ t.evq, e.handle < s.widths.memSize ∧ e.count < s.widths.wordSize := by
  obtain hevq | ⟨k, c, hevq, hsource⟩ := exec_evq_cases hx
  · exact hevq ▸ h.shared.evq
  · have hn : s.me.tmp.n < s.widths.wordSize := h.tmpFits.2.2.2.2.1
    have hc : c < s.widths.wordSize := by
      obtain ⟨-, -, rfl⟩ | ⟨-, -, rfl⟩ | ⟨-, -, rfl⟩ := hsource
      · exact hn
      · exact hn
      · exact wordSize_pos _
    intro e he
    rw [hevq, List.mem_append] at he
    obtain he | he := he
    · exact h.shared.evq e he
    · unfold eventsOf at he
      split at he
      · rw [List.mem_singleton.mp he]
        exact ⟨h.shared.nhnd, hc⟩
      · cases he

include h hx in
theorem exec_mem_kept : t.mem.wf = true ∧ t.mem.below s.widths.memSize = true := by
  obtain hmem | ⟨a, ha, hmem⟩ := exec_mem_cases hx
  · rw [hmem]
    exact ⟨h.wf, h.shared.mem⟩
  · rw [exec_of_storeAddr ha] at hx
    obtain ⟨hlt, -⟩ := copyWrite_next hx
    rw [hmem]
    exact ⟨wf_store _ _ _ h.wf, below_store _ _ _ h.shared.mem hlt⟩

end Shared

/-! ### The two ports after a micro-step -/

theorem portOk_congr {s t : State} {x : PortRegs} (hbinding : sameBinding s t) (hwidths : t.widths = s.widths)
    (h : portOk s x) : portOk t x := by
  obtain ⟨hbound, hbase, hcap⟩ := hbinding
  unfold portOk
  rw [hbound, hbase, hcap, hwidths]
  exact h

/-- A port that is at most issued holds no binding. -/
theorem portOk_of_mu_le_one {s t : State} {x : PortRegs} (hmu : x.phase.mu ≤ 1) (h : portOk s x) : portOk t x := by
  unfold portOk at h ⊢
  cases hp : x.phase with
  | idle => trivial
  | run k =>
    simp only [hp, Phase.mu] at hmu h
    exact ⟨h.1, by omega⟩

theorem packet_of_sameOperands {x y : PortRegs} (h : sameOperands x y) : y.packet = x.packet := by
  obtain ⟨hcw, h0, h1, h2⟩ := h
  simp [PortRegs.packet, hcw, h0, h1, h2]

/-- Every micro-step of a command that is where it can be keeps the invariant. -/
theorem exec_keeps_invAt {s t : State} {i : Instr} {k : Nat} (h : InvAt s) (hk : s.me.phase = .run k)
    (hd : decode s.me.packet = .ok i) (hx : exec i s = .next t) : InvAt t := by
  have r := running_of_portOk h.me hk hd
  obtain ⟨hopp, hops, hwidths, -⟩ := exec_surroundings hx
  obtain ⟨hfits, hprogress⟩ := exec_kept h r hx
  obtain ⟨hbase, hcap⟩ := exec_base_lt h hd hx
  obtain ⟨hwpos, hrpos⟩ := exec_indices_lt h r hx
  obtain ⟨hwf, hbelow⟩ := exec_mem_kept h hx
  refine ⟨exec_usable h r hx, ?_, ?_, hwf, ?_, hwidths ▸ hfits, ?_⟩
  · obtain hidle | ⟨hphase, hb, hub, huc, hp⟩ := hprogress
    · simp [portOk, hidle]
    · have hmu : s.mu = k := mu_of_atMu hk
      have hphase : t.me.phase = .run (k + 1) := by rw [hphase, hk, Phase.succ]
      obtain hbinding | ⟨hidle, -⟩ := exec_binding_or_quiescent hx
      · obtain ⟨ebound, ebase, ecap⟩ := hbinding
        simp only [portOk, hphase]
        refine ⟨by omega, fun _ => ⟨ebound.trans hb, hub.trans ebase.symm, huc.trans ecap.symm, i, ?_, ?_⟩⟩
        · rw [packet_of_sameOperands hops, hd]
        · rw [hwidths, ← hmu]
          exact hp
      · simp [portOk, hidle]
  · rw [hopp]
    obtain hbinding | ⟨-, hquiet⟩ := exec_binding_or_quiescent hx
    · exact portOk_congr hbinding hwidths h.opposite
    · exact portOk_of_mu_le_one hquiet h.opposite
  · have hone := h.shared.one_le
    have hnhnd := exec_nhnd_lt h hd hx
    have hevq := exec_evq_fits h hx
    constructor <;> rw [hwidths] <;> assumption
  · rw [hopp, hwidths]
    exact h.oppositeFits

/-! ### The other turns -/

/-- Registers written on the stepping port alone keep the invariant if they fit and the port is where it can be. -/
theorem invAt_setMe {s : State} {x : PortRegs} (h : InvAt s) (hx : portOk s x) (hfits : x.inWidth s.widths) :
    InvAt (s.setMe x) := by
  have hbinding : sameBinding s (s.setMe x) := by simp [sameBinding]
  refine ⟨fun hb => ?_, ?_, ?_, by simpa using h.wf, ?_, by simpa using hfits, by simpa using h.oppositeFits⟩
  · simpa [Usable] using h.usable (by simpa using hb)
  · rw [setMe_me]
    exact portOk_congr hbinding (by simp) hx
  · rw [setMe_opposite]
    exact portOk_congr hbinding (by simp) h.opposite
  · obtain ⟨h1, hbase, hnhnd, hcap, hwpos, hrpos, hevq, hmem⟩ := h.shared
    constructor <;> simpa

theorem inv_setPort {s : State} {p : Port} {x : PortRegs} (h : Inv s) (hx : portOk s x) (hfits : x.inWidth s.widths) :
    Inv (s.tookTurn.setPort p x) := by
  have hset : Inv ((s.onTurn p).setMe x) :=
    (inv_iff_invAt _).mpr (invAt_setMe ((inv_iff_invAt _).mp (inv_onTurn p h)) hx hfits)
  cases p <;> exact hset

theorem inWidth_port {s : State} (h : Inv s) (p : Port) : (s.port p).inWidth s.widths := by
  have := ((inv_iff_invAt _).mp (inv_onTurn p h)).meFits
  rwa [onTurn_me] at this

theorem inv_outsideWrite {s : State} (a : Nat) (v : Byte) (h : Inv s) : Inv (outsideWrite a v s) := by
  obtain ⟨husable, hP, hC, hwf, h1, hbase, hnhnd, hcap, hwpos, hrpos, hPfits, hCfits, hevq, hmem⟩ := h
  exact ⟨husable, hP, hC, wf_outsideWrite a v s hwf, h1, hbase, hnhnd, hcap, hwpos, hrpos, hPfits, hCfits, hevq,
    below_outsideWrite a v s hmem⟩

/-- The reset state with any memory in its canonical form. -/
theorem inv_resetAt {ws : Widths} (h1 : 1 ≤ ws.w) {m : Memory} (hwf : m.wf = true) (hbelow : m.below ws.memSize = true) :
    Inv { State.resetAt ws with mem := m } := by
  refine ⟨(fun h => by cases h), trivial, trivial, hwf, h1, memSize_pos ws, memSize_pos ws, wordSize_pos ws, wordSize_pos ws,
    wordSize_pos ws, reset_inWidth ws, reset_inWidth ws, (fun e he => by cases he), hbelow⟩

/-- Settles O49: after reset nothing is bound or in flight, and every register is 0. -/
theorem invariantAtReset : Obligations.InvariantAtReset := fun _ h1 => inv_resetAt h1 rfl rfl

/-- Settles O50: a command's micro-step keeps the invariant, and no other turn writes what it speaks of, but for a packet
that fits, a byte, and the reset values. -/
theorem stepKeepsTheInvariant : Obligations.StepKeepsTheInvariant := by
  intro s t hinv h
  cases stepCase_of_step h with
  | issue p q hturn ht =>
    obtain ⟨-, e⟩ | ⟨-, e⟩ := issue_cases p q s.tookTurn <;> rw [ht, e]
    · rw [tookTurn_port, (tookTurn_fields s).1]
      exact ⟨inv_setPort hinv ⟨Nat.le_refl 1, by omega⟩ (latch_onWires_inWidth (inWidth_port hinv p) q), by simp⟩
    · exact ⟨hinv, rfl⟩
  | exec p k i hturn hp hd hx =>
    obtain ⟨-, -, hwidths, -⟩ := exec_surroundings hx
    have h' := (inv_iff_invAt _).mp (inv_onTurn p hinv)
    exact ⟨(inv_iff_invAt t).mpr (exec_keeps_invAt h' (by simpa using hp) (by simpa using hd) hx), hwidths⟩
  | illegal p e hturn hp hd ht =>
    have h' := (inv_iff_invAt _).mp (inv_onTurn p hinv)
    have hkept : PortKept (s.onTurn p) .isready (s.onTurn p).completeZero := .of_completeZero h' rfl
    refine ⟨?_, by simp [ht]⟩
    rw [ht]
    exact (inv_iff_invAt _).mpr (invAt_setMe h' (by simp [portOk]) (by simpa [State.completeZero] using hkept.fits))
  | idle p hturn hp ht => exact ht ▸ ⟨hinv, rfl⟩
  | outsideWrite a v hturn ht => exact ht ▸ ⟨inv_outsideWrite a v (s := s.tookTurn) hinv, rfl⟩
  | outsideRead a hturn ht => exact ht ▸ ⟨hinv, rfl⟩
  | hwReset hturn ht =>
    obtain ⟨-, -, -, hwf, h1, -, -, -, -, -, -, -, -, hmem⟩ := hinv
    exact ht ▸ ⟨inv_resetAt h1 hwf hmem, rfl⟩

/-! ### The bound on a command's micro-steps -/

/-- No command has more than `2N + 5` micro-steps (R236). -/
theorem progressOk_le {size k : Nat} {i : Instr} {u : Temps} (hc : 1 ≤ u.cap) (h : progressOk size i k u) :
    k ≤ 2 * u.cap + 5 := by
  have hcopy {extra start : Nat} {buf : Option Nat} (hk : 5 ≤ k) (h : copyOk size extra k buf start u) (hextra : extra ≤ 2) :
      k ≤ 2 * u.cap + 5 := by
    obtain ⟨-, -, hn, -, -, -, hcursor⟩ := h
    omega
  cases i with
  | init | isready | detach | setntfy => exact h.elim
  | free | used | lraddr | lrlen | lwaddr | lwlen | skip | advance =>
    have := h.1
    omega
  | reset =>
    have : k ≤ 4 := h
    omega
  | write p len | read p len =>
    by_cases h5 : 5 ≤ k
    · exact hcopy h5 (h.2.2 h5).2 (by decide)
    · omega
  | peek p len skip =>
    by_cases h5 : 5 ≤ k
    · exact hcopy h5 (h.2.2 h5).2.2.2 (by decide)
    · omega

/-- A port in flight is within the bound of the ring it runs on. -/
theorem phase_le_of_inv {s : State} {p : Port} {k : Nat} (h : Inv s) (hp : (s.port p).phase = .run k) :
    k ≤ 2 * s.cap + 5 := by
  have h' := (inv_iff_invAt _).mp (inv_onTurn p h)
  have hok := h'.me
  rw [onTurn_me] at hok
  simp only [portOk, hp, onTurn_fields] at hok
  obtain ⟨-, hlatched⟩ := hok
  by_cases h2 : 2 ≤ k
  · obtain ⟨hb, -, hcap, i, -, hprogress⟩ := hlatched h2
    obtain ⟨-, hw, -⟩ := h.1 hb
    exact hcap ▸ progressOk_le (by omega) hprogress
  · omega

theorem port_eq_or_other (p q : Port) : q = p ∨ q = p.other := by
  cases p <;> cases q <;> decide

/-- A turn of another agent leaves a busy port's sequencer where it is, but for the hardware reset. -/
theorem step_phase_of_other {s t : State} {p : Port} {k : Nat} (h : step s = .next t) (hp : (s.port p).phase = .run k)
    (hturn : s.turn ≠ .run p) (hreset : s.turn ≠ .hwReset) : t.port p = s.port p := by
  have hother {q : Port} (hq : s.turn = .run q) : p = q.other :=
    (port_eq_or_other q p).resolve_left fun e => hturn (e ▸ hq)
  cases stepCase_of_step h with
  | issue q pk hturn' ht =>
    obtain ⟨hidle, e⟩ | ⟨-, e⟩ := issue_cases q pk s.tookTurn <;> rw [ht, e]
    · rw [setPort_port_ne, tookTurn_port]
      rintro rfl
      rw [tookTurn_port, hp] at hidle
      cases hidle
    · exact tookTurn_port s p
  | exec q j i hturn' hq hd hx =>
    obtain rfl := hother hturn'
    exact (exec_onTurn_ports hx).2
  | illegal q e hturn' hq hd ht =>
    obtain rfl := hother hturn'
    rw [ht, port_other_of_cur (by simp : (s.onTurn q).completeZero.cur = q)]
    simp
  | idle q hturn' hq ht => rw [ht, tookTurn_port]
  | outsideWrite a v hturn' ht => rw [ht]; cases p <;> rfl
  | outsideRead a hturn' ht => rw [ht, tookTurn_port]
  | hwReset hturn' ht => exact absurd hturn' hreset

/-- Settles O53: a running port's turn moves its phase, no other turn does, and the invariant bounds the phase after. -/
theorem commandsEndWithinTheirBound : Obligations.CommandsEndWithinTheirBound := by
  intro s t hinv h p k hp
  obtain ⟨hinv', -⟩ := stepKeepsTheInvariant s t hinv h
  refine ⟨fun hturn => ?_, fun hturn hreset => ?_, fun hturn => ?_⟩
  · obtain ⟨i, r, -, -, hrefused⟩ | ⟨-, t', ht', hphase⟩ := runningPortAlwaysMoves s p k hinv hturn hp
    · cases hrefused.symm.trans h
    · obtain rfl := Host.Outcome.next.inj (ht'.symm.trans h)
      exact hphase.imp_right fun hrun => ⟨hrun, phase_le_of_inv hinv' hrun⟩
  · have hrun : (t.port p).phase = .run k := (congrArg PortRegs.phase (step_phase_of_other h hp hturn hreset)).trans hp
    exact ⟨hrun, phase_le_of_inv hinv' hrun⟩
  · have hstep : step s = .next (hwReset s.tookTurn) := by rw [step, hturn]; rfl
    obtain rfl := Host.Outcome.next.inj (hstep.symm.trans h)
    cases p <;> rfl

end Sys2Proof.Machine

/-! Proofs of the statements under the role contract: snapshots in flight stay conservative (spec/41_accounting.md section 1,
spec/60_exceptions.md section 4). -/

namespace Sys2Proof.Machine

/-! ### The role contract -/

/-- What a row answers on other operands is as much the producer's or the consumer's (R203). -/
theorem roleAllows_of_decodeOpc {opc : Nat} {pv : Bool} {p q : Packet} {i : Instr} (h : decodeOpc opc pv p = .ok i) :
    ∃ j, decodeOpc opc pv q = .ok j ∧ ∀ port, roleAllows port i = roleAllows port j := by
  unfold decodeOpc at h
  split at h
  case h_17 => cases h
  case h_1 | h_4 | h_7 | h_8 | h_9 =>
    cases h
    exact ⟨_, rfl, fun port => by cases port <;> rfl⟩
  all_goals
    obtain ⟨rfl, rfl⟩ := noPointer_ok h
    exact ⟨_, rfl, fun port => by cases port <;> rfl⟩

/-- Cutting the operands to the port's widths changes nobody's role. -/
theorem roleAllows_of_onWires {q : Packet} {ws : Widths} {i : Instr} (h : decode (q.onWires ws) = .ok i) :
    ∃ j, decode q = .ok j ∧ ∀ port, roleAllows port i = roleAllows port j := by
  obtain ⟨hrsv, hopc⟩ := decodeOpc_of_decode h
  obtain ⟨j, hj, hrole⟩ := roleAllows_of_decodeOpc (q := q) hopc
  exact ⟨j, (if_pos hrsv).trans hj, hrole⟩

theorem port_of_movesWpos {p : Port} {i : Instr} (h : roleAllows p i = true) (hi : MovesWpos i) : p = .P := by
  cases p with
  | P => rfl
  | C => obtain ⟨_, _, rfl⟩ | ⟨_, rfl⟩ := hi <;> cases h

theorem port_of_consumerOnly {p : Port} {i : Instr} (h : roleAllows p i = true) (hi : consumerOnly i = true) : p = .C := by
  cases p with
  | P => simp [roleAllows, hi] at h
  | C => rfl

theorem consumerOnly_of_movesRpos {i : Instr} (hi : MovesRpos i) : consumerOnly i = true := by
  obtain ⟨_, _, rfl⟩ | ⟨_, rfl⟩ := hi <;> rfl

theorem port_of_initOrReset {p : Port} {i : Instr} (h : roleAllows p i = true)
    (hi : (∃ r cap, i = .init r cap) ∨ i = .reset) : p = .P := by
  cases p with
  | P => rfl
  | C => obtain ⟨_, _, rfl⟩ | rfl := hi <;> cases h

/-! ### What a step does to one port -/

/-- Everything one step can do to port `q`. -/
inductive PortCase (s t : State) (q : Port) : Prop where
  /-- the port is idle -/
  | idle (h : (t.port q).phase = .idle)
  /-- a packet is issued to it -/
  | issued (pk : Packet) (hturn : s.turn = .issue q pk) (h : t.port q = (s.port q).latch (pk.onWires s.widths))
  /-- it takes a micro-step -/
  | ran (k : Nat) (i : Instr) (hturn : s.turn = .run q) (hp : (s.port q).phase = .run k)
      (hd : decode (s.port q).packet = .ok i) (hx : exec i (s.onTurn q) = .next t)
  /-- nothing -/
  | kept (hturn : s.turn ≠ .run q) (h : t.port q = s.port q)

theorem portCase_of_step {s t : State} (h : step s = .next t) (q : Port) : PortCase s t q := by
  have hrun {p : Port} (hturn : s.turn = .run p) : s.turn ≠ .run p.other := by
    rw [hturn]
    cases p <;> nofun
  cases stepCase_of_step h with
  | issue p pk hturn ht =>
    have hnot : s.turn ≠ .run q := by rw [hturn]; nofun
    obtain ⟨-, e⟩ | ⟨-, e⟩ := issue_cases p pk s.tookTurn <;> rw [e] at ht
    · obtain rfl | rfl := port_eq_or_other p q
      · exact .issued pk hturn (by simp [ht])
      · exact .kept hnot (by simp [ht])
    · exact .kept hnot (by simp [ht])
  | exec p k i hturn hp hd hx =>
    obtain rfl | rfl := port_eq_or_other p q
    · exact .ran k i hturn hp hd hx
    · exact .kept (hrun hturn) (exec_onTurn_ports hx).2
  | illegal p e hturn hp hd ht =>
    have hcur : t.cur = p := by simp [ht]
    obtain rfl | rfl := port_eq_or_other p q
    · exact .idle (by rw [port_of_cur hcur]; simp [ht])
    · exact .kept (hrun hturn) (by rw [port_other_of_cur hcur]; simp [ht])
  | idle p hturn hp ht =>
    obtain rfl | rfl := port_eq_or_other p q
    · exact .idle (by simpa [ht] using hp)
    · exact .kept (hrun hturn) (by simp [ht])
  | outsideWrite a v hturn ht => exact .kept (by rw [hturn]; nofun) (by rw [ht]; cases q <;> rfl)
  | outsideRead a hturn ht => exact .kept (by rw [hturn]; nofun) (by simp [ht])
  | hwReset hturn ht => exact .idle (by rw [ht]; cases q <;> rfl)

/-- A command in flight stays where it was issued, and what is issued is where it is allowed. -/
theorem roles_kept {s t : State} (hroles : Roles s) (hturn : roleTurn s.turn) (h : step s = .next t) : Roles t := by
  intro q i hrun hd
  cases portCase_of_step h q with
  | idle hidle => exact absurd hidle hrun
  | issued pk hissue ht =>
    rw [ht, (latch_fields _ _).1] at hd
    obtain ⟨j, hj, hrole⟩ := roleAllows_of_onWires hd
    rw [hissue] at hturn
    rw [hrole]
    exact hturn j hj
  | ran k j _ hp hj hx =>
    obtain ⟨hme, -⟩ := exec_onTurn_ports hx
    obtain ⟨-, hops, -⟩ := exec_surroundings hx
    rw [hme, packet_of_sameOperands hops, onTurn_me] at hd
    exact hroles q i (by simp [hp]) hd
  | kept _ ht =>
    rw [ht] at hrun hd
    exact hroles q i hrun hd

/-! ### What a step does to the binding and the indices -/

/-- A micro-step keeps them, stores one index, or is INIT's, RESET's or DETACH's with the other port at most issued. -/
theorem exec_ring_cases {i : Instr} {s t : State} (hx : exec i s = .next t) :
    (sameBinding s t ∧ sameIndices s t) ∨ (MovesWpos i ∧ s.mu = storeMu i s.me.tmp ∧ t = storeWpos s) ∨
    (MovesRpos i ∧ s.mu = storeMu i s.me.tmp ∧ t = storeRpos s) ∨
    (s.opposite.phase.mu ≤ 1 ∧ ((((∃ r cap, i = .init r cap) ∨ i = .reset) ∧ t.wpos = 0 ∧ t.rpos = 0) ∨
      (i = .detach ∧ t.bound = false))) := by
  have hquiet (hq : otherInFlight s = false) : s.opposite.phase.mu ≤ 1 := by
    simp only [otherInFlight, decide_eq_false_iff_not] at hq
    omega
  obtain plain | shared := exec_next hx
  · obtain ⟨hbinding, -, hindices, -⟩ := plain.frame
    exact .inl ⟨hbinding, hindices⟩
  · cases shared with
    | wpos hi ht =>
      by_cases hne : t.wpos = s.wpos
      · exact .inl ⟨by simp [ht, sameBinding, storeWpos], hne, by simp [ht, storeWpos]⟩
      · exact .inr (.inl ⟨hi, wpos_store hx hi hne⟩)
    | rpos hi ht =>
      by_cases hne : t.rpos = s.rpos
      · exact .inl ⟨by simp [ht, sameBinding, storeRpos], by simp [ht, storeRpos], hne⟩
      · exact .inr (.inr (.inl ⟨hi, rpos_store hx hi hne⟩))
    | zero hi _ hq ht => exact .inr (.inr (.inr ⟨hquiet hq, .inl ⟨.inr hi, by simp [ht], by simp [ht]⟩⟩))
    | init a cap hi _ _ _ hq ht => exact .inr (.inr (.inr ⟨hquiet hq, .inl ⟨.inl ⟨_, _, hi⟩, by simp [ht], by simp [ht]⟩⟩))
    | detach hi _ hq ht => exact .inr (.inr (.inr ⟨hquiet hq, .inr ⟨hi, by simp [ht]⟩⟩))
    | _ => left; subst t; simp [sameBinding, sameIndices, emitStep]

/-- Everything one step can do to the binding and the indices under the role contract. -/
inductive RingCase (s t : State) : Prop where
  /-- nothing -/
  | same (hbinding : sameBinding s t) (hindices : sameIndices s t)
  /-- the producer's index store: `n` bytes are put in -/
  | produce (k : Nat) (i : Instr) (hturn : s.turn = .run .P) (hp : s.portP.phase = .run k)
      (hd : decode s.portP.packet = .ok i) (hi : MovesWpos i) (ht : t = storeWpos (s.onTurn .P)) (hb : s.bound = true)
      (hw : t.wpos = adv s.wpos s.portP.tmp.n s.cap) (hn : s.portP.tmp.n ≤ freeSpace s.wpos s.rpos s.cap)
  /-- the consumer's index store: `n` bytes are taken out -/
  | consume (k : Nat) (i : Instr) (hturn : s.turn = .run .C) (hp : s.portC.phase = .run k)
      (hd : decode s.portC.packet = .ok i) (hi : MovesRpos i) (ht : t = storeRpos (s.onTurn .C)) (hb : s.bound = true)
      (hr : t.rpos = adv s.rpos s.portC.tmp.n s.cap) (hn : s.portC.tmp.n ≤ usedSpace s.wpos s.rpos s.cap)
  /-- INIT or RESET: both indices are 0 -/
  | empty (i : Instr) (hturn : s.turn = .run .P) (hruns : s.runs .P i) (hi : (∃ r cap, i = .init r cap) ∨ i = .reset)
      (hquiet : s.portC.phase.mu ≤ 1) (hw : t.wpos = 0) (hr : t.rpos = 0)
  /-- DETACH -/
  | unbind (p : Port) (hturn : s.turn = .run p) (hquiet : (s.port p.other).phase.mu ≤ 1) (hb : t.bound = false)
  /-- the hardware reset input -/
  | hwReset (hturn : s.turn = .hwReset) (h : t = hwReset s.tookTurn)

theorem loaded_of_five_le {k : Nat} (h : 5 ≤ k) : wLoaded k ∧ rLoaded k := by
  unfold wLoaded rLoaded
  split <;> constructor <;> omega

theorem four_le_of_loaded {k : Nat} (h : wLoaded k ∨ rLoaded k) : 4 ≤ k := by
  unfold wLoaded rLoaded at h
  split at h <;> omega

/-- The sound snapshot of a producer at its index store: the index is live and the count fits the free space (R135). -/
theorem clamp_of_producerSound {s : State} {k : Nat} {i : Instr} (hinv : Inv s) (hsound : producerSound s s.portP)
    (hp : s.portP.phase = .run k) (hd : decode s.portP.packet = .ok i) (hi : MovesWpos i) (h5 : 5 ≤ k)
    (hk : k ≤ storeMu i s.portP.tmp) :
    s.portP.tmp.sw = s.wpos ∧ s.portP.tmp.n ≤ freeSpace s.wpos s.rpos s.cap := by
  have hmu : (s.onTurn .P).mu = k := by simp [State.mu, State.port, hp, Phase.mu]
  have hc := clamped_of_movesWpos (running_onTurn (p := .P) hinv hp hd) hi (by omega)
  obtain ⟨hw, hr⟩ := hsound k i hp hd hi hk
  have hsw := hw (loaded_of_five_le h5).1
  have hle := hr (loaded_of_five_le h5).2
  have hn : s.portP.tmp.n ≤ freeSpace s.portP.tmp.sw s.portP.tmp.sr s.cap := hc.n
  rw [hsw] at hn
  exact ⟨hsw, hn.trans hle⟩

/-- The same of a consumer at its index store, against the used space. -/
theorem clamp_of_consumerSound {s : State} {k : Nat} {i : Instr} (hinv : Inv s) (hsound : consumerSound s s.portC)
    (hp : s.portC.phase = .run k) (hd : decode s.portC.packet = .ok i) (hi : MovesRpos i) (h5 : 5 ≤ k)
    (hk : k ≤ storeMu i s.portC.tmp) :
    s.portC.tmp.sr = s.rpos ∧ s.portC.tmp.n ≤ usedSpace s.wpos s.rpos s.cap := by
  have hmu : (s.onTurn .C).mu = k := by simp [State.mu, State.port, hp, Phase.mu]
  have hc := clamped_of_movesRpos (running_onTurn (p := .C) hinv hp hd) hi (by omega)
  obtain ⟨hr, hw⟩ := hsound k i hp hd (consumerOnly_of_movesRpos hi) hk
  have hsr := hr (loaded_of_five_le h5).2
  have hle := hw (loaded_of_five_le h5).1
  have hn : s.portC.tmp.n ≤ usedSpace s.portC.tmp.sw s.portC.tmp.sr s.cap := hc.n
  rw [hsr] at hn
  exact ⟨hsr, hn.trans hle⟩

theorem ringCase_of_step {s t : State} (hinv : Inv s) (hroles : Roles s) (hsound : Conservative s)
    (h : step s = .next t) : RingCase s t := by
  obtain ⟨hbinding, -, hindices, -⟩ | ⟨p, k, i, hturn, hp, hd, hx⟩ | ⟨hturn, ht⟩ := (stepCase_of_step h).shared_cases
  · exact .same hbinding hindices
  · have hrole := hroles p i (by simp [hp]) hd
    have hmu : (s.onTurn p).mu = k := by simp [State.mu, hp, Phase.mu]
    have r := running_onTurn hinv hp hd
    obtain ⟨hbinding, hindices⟩ | ⟨hi, hk, ht⟩ | ⟨hi, hk, ht⟩ | ⟨hquiet, ⟨hi, hw, hr⟩ | ⟨-, hb⟩⟩ := exec_ring_cases hx
    · exact .same hbinding hindices
    · obtain rfl := port_of_movesWpos hrole hi
      have h5 := hk ▸ five_le_storeMu i (s.onTurn .P).me.tmp
      have hc := clamped_of_movesWpos r hi h5
      obtain ⟨hsw, hn⟩ := clamp_of_producerSound hinv hsound.1 hp hd hi (by omega) (by rw [← hmu, hk]; exact Nat.le_refl _)
      have hcap : s.portP.tmp.cap = s.cap := hc.cap
      exact .produce k i hturn hp hd hi ht hc.bound (by simp [ht, storeWpos, State.port, hsw, hcap]) hn
    · obtain rfl := port_of_consumerOnly hrole (consumerOnly_of_movesRpos hi)
      have h5 := hk ▸ five_le_storeMu i (s.onTurn .C).me.tmp
      have hc := clamped_of_movesRpos r hi h5
      obtain ⟨hsr, hn⟩ := clamp_of_consumerSound hinv hsound.2 hp hd hi (by omega) (by rw [← hmu, hk]; exact Nat.le_refl _)
      have hcap : s.portC.tmp.cap = s.cap := hc.cap
      exact .consume k i hturn hp hd hi ht hc.bound (by simp [ht, storeRpos, State.port, hsr, hcap]) hn
    · obtain rfl := port_of_initOrReset hrole hi
      exact .empty i hturn (runs_of_phase hp hd) hi hquiet hw hr
    · exact .unbind p hturn (by simpa using hquiet) hb
  · exact .hwReset hturn ht

end Sys2Proof.Machine

namespace Sys2Proof.Machine

/-! ### How a command comes by its snapshot -/

section Snapshot

variable {s t : State} {i : Instr}

theorem planCopy_loads {buf : Option Nat} {n start : Nat} {u : Temps} (h : planCopy buf n start u s = .next t) :
    t.me.tmp.sw = u.sw ∧ t.me.tmp.sr = u.sr := by
  obtain ⟨-, rfl⟩ | ⟨-, -, -, rfl⟩ := planCopy_next h <;> simp

theorem planCount_loads (len : Nat) (avail : Temps → Nat) (u : Temps) (s : State) :
    (planCount len avail u s).me.tmp.sw = u.sw ∧ (planCount len avail u s).me.tmp.sr = u.sr := by
  obtain ⟨-, e⟩ | ⟨-, e⟩ := planCount_cases len avail u s <;> simp [e]

/-- The fourth micro-step completes the snapshot. -/
theorem exec_loads_of_atMu_four {ok : Bool} (hi : argsOk i = some ok) (h : s.atMu 4) (hx : exec i s = .next t) :
    t.me.tmp.sw = (secondLoad Config.snapOrder s).sw ∧ t.me.tmp.sr = (secondLoad Config.snapOrder s).sr := by
  cases i with
  | write p len => exact planCopy_loads ((exec_write_of_atMu_four h p len).symm.trans hx)
  | read p len => exact planCopy_loads ((exec_read_of_atMu_four h p len).symm.trans hx)
  | peek p len skip =>
    obtain ⟨-, rfl⟩ | ⟨-, hplan⟩ := planPeek_next ((exec_peek_of_atMu_four h p len skip).symm.trans hx)
    · simp
    · have hloads := planCopy_loads hplan
      exact hloads
  | skip len =>
    obtain rfl := Host.Outcome.next.inj ((exec_skip_of_atMu_four h len).symm.trans hx)
    exact planCount_loads _ _ _ s
  | advance len =>
    obtain rfl := Host.Outcome.next.inj ((exec_advance_of_atMu_four h len).symm.trans hx)
    exact planCount_loads _ _ _ s
  | _ => cases hi

/-- The snapshot and the effective count are as they were. -/
def sameSnapshot (u v : Temps) : Prop := v.sw = u.sw ∧ v.sr = u.sr ∧ v.n = u.n

theorem copyRead_sameSnapshot {a : Nat} (h : copyRead a s = .next t) : sameSnapshot s.me.tmp t.me.tmp := by
  simp [(copyRead_next h).2, sameSnapshot]

theorem copyWrite_sameSnapshot {a : Nat} (h : copyWrite a s = .next t) : sameSnapshot s.me.tmp t.me.tmp := by
  simp [(copyWrite_next h).2, sameSnapshot]

theorem emitStep_sameSnapshot (k : EventKind) (c : Nat) (s : State) : sameSnapshot s.me.tmp (emitStep k c s).me.tmp := by
  simp [emitStep, sameSnapshot]

theorem complete_sameSnapshot (s : State) (r : Nat) (a : Option Nat) : sameSnapshot s.me.tmp (s.complete r a).me.tmp := by
  simp [sameSnapshot]

theorem storeWpos_sameSnapshot (s : State) : sameSnapshot s.me.tmp (storeWpos s).me.tmp := by
  simp [storeWpos, sameSnapshot]

theorem storeRpos_sameSnapshot (s : State) : sameSnapshot s.me.tmp (storeRpos s).me.tmp := by
  simp [storeRpos, sameSnapshot]

/-- Past its fourth micro-step a command works on the snapshot it has (R16). -/
theorem exec_sameSnapshot {ok : Bool} (hi : argsOk i = some ok) (h5 : 5 ≤ s.mu) (hx : exec i s = .next t) :
    sameSnapshot s.me.tmp t.me.tmp := by
  cases i with
  | write p len =>
    rw [exec, execWrite, writeStep_of_five_le h5] at hx
    obtain ⟨-, hx⟩ | ⟨-, hx⟩ | ⟨-, rfl⟩ | ⟨-, rfl⟩ | ⟨-, rfl⟩ := writeLoop_next hx
    · exact copyRead_sameSnapshot hx
    · exact copyWrite_sameSnapshot hx
    · exact storeWpos_sameSnapshot s
    · exact emitStep_sameSnapshot _ _ s
    · exact complete_sameSnapshot s _ _
  | read p len =>
    rw [exec, execRead, readStep_of_five_le h5] at hx
    obtain ⟨-, hx⟩ | ⟨-, hx⟩ | ⟨-, rfl⟩ | ⟨-, rfl⟩ | ⟨-, rfl⟩ := readLoop_next hx
    · exact copyRead_sameSnapshot hx
    · exact copyWrite_sameSnapshot hx
    · exact storeRpos_sameSnapshot s
    · exact emitStep_sameSnapshot _ _ s
    · exact complete_sameSnapshot s _ _
  | peek p len skip =>
    rw [exec, execPeek, peekStep_of_five_le h5] at hx
    obtain ⟨-, hx⟩ | ⟨-, hx⟩ | ⟨-, rfl⟩ := peekLoop_next hx
    · exact copyRead_sameSnapshot hx
    · exact copyWrite_sameSnapshot hx
    · exact complete_sameSnapshot s _ _
  | skip len =>
    obtain ⟨hmu, -⟩ | ⟨hmu, -⟩ | ⟨hmu, -⟩ | ⟨hmu, -⟩ | ⟨-, rfl⟩ | ⟨-, rfl⟩ | ⟨-, rfl⟩ := indexMove_next hx
    iterate 4 omega
    · exact storeRpos_sameSnapshot s
    · exact emitStep_sameSnapshot _ _ s
    · exact complete_sameSnapshot s _ _
  | advance len =>
    obtain ⟨hmu, -⟩ | ⟨hmu, -⟩ | ⟨hmu, -⟩ | ⟨hmu, -⟩ | ⟨-, rfl⟩ | ⟨-, rfl⟩ | ⟨-, rfl⟩ := indexMove_next hx
    iterate 4 omega
    · exact storeWpos_sameSnapshot s
    · exact emitStep_sameSnapshot _ _ s
    · exact complete_sameSnapshot s _ _
  | _ => cases hi

theorem storeMu_of_sameSnapshot {u v : Temps} (h : sameSnapshot u v) (i : Instr) : storeMu i v = storeMu i u := by
  obtain ⟨-, -, hn⟩ := h
  cases i <;> simp [storeMu, hn]

/-! ### Sound snapshots -/

/-- At `μk` what the snapshot `u` has loaded of `WPOS` satisfies `W`, of `RPOS` `R`. -/
def loadedSound (W R : Nat → Prop) (k : Nat) (u : Temps) : Prop := (wLoaded k → W u.sw) ∧ (rLoaded k → R u.sr)

/-- The commands of `cmds` have a sound snapshot until their index store: the shape of `producerSound` and
`consumerSound`. -/
def snapshotSound (cmds : Instr → Prop) (W R : Nat → Prop) (x : PortRegs) : Prop :=
  ∀ k i, x.phase = .run k → decode x.packet = .ok i → cmds i → k ≤ storeMu i x.tmp → loadedSound W R k x.tmp

/-- `w` is the live write index. -/
def isWpos (s : State) (w : Nat) : Prop := w = s.wpos

/-- `r` is the live read index. -/
def isRpos (s : State) (r : Nat) : Prop := r = s.rpos

/-- Against the read index `r` there is at most the true free space. -/
def freeSafe (s : State) (r : Nat) : Prop := freeSpace s.wpos r s.cap ≤ freeSpace s.wpos s.rpos s.cap

/-- Up to the write index `w` there is at most the true used space. -/
def usedSafe (s : State) (w : Nat) : Prop := usedSpace w s.rpos s.cap ≤ usedSpace s.wpos s.rpos s.cap

theorem producerSound_iff (s : State) (x : PortRegs) :
    producerSound s x ↔ snapshotSound MovesWpos (isWpos s) (freeSafe s) x := Iff.rfl

theorem consumerSound_iff (s : State) (x : PortRegs) :
    consumerSound s x ↔ snapshotSound (consumerOnly · = true) (usedSafe s) (isRpos s) x :=
  forall₂_congr fun _ _ => forall₄_congr fun _ _ _ _ => and_comm

variable {cmds : Instr → Prop} {W R : Nat → Prop} {x : PortRegs}

/-- Before `μ4` nothing is loaded. -/
theorem snapshotSound_of_mu_le (h : x.phase.mu ≤ 3) : snapshotSound cmds W R x := by
  intro k i hk _ _ _
  have hmu : k ≤ 3 := by simpa [hk, Phase.mu] using h
  exact ⟨fun hw => absurd (four_le_of_loaded (.inl hw)) (by omega), fun hr => absurd (four_le_of_loaded (.inr hr)) (by omega)⟩

theorem snapshotSound_mono {W' R' : Nat → Prop} (h : snapshotSound cmds W R x) (hW : ∀ w, W w → W' w) (hR : ∀ r, R r → R' r) :
    snapshotSound cmds W' R' x := by
  intro k i hk hd hi hstore
  obtain ⟨hw, hr⟩ := h k i hk hd hi hstore
  exact ⟨fun h => hW _ (hw h), fun h => hR _ (hr h)⟩

/-- A snapshot is sound after the micro-step of its own command, as far as what it loads is. -/
theorem loadedSound_exec {ok : Bool} (hargs : argsOk i = some ok) (hx : exec i s = .next t) (hW : W s.wpos) (hR : R s.rpos) (hstore : s.mu + 1 ≤ storeMu i t.me.tmp)
    (h : s.mu ≤ storeMu i s.me.tmp → loadedSound W R s.mu s.me.tmp) : loadedSound W R (s.mu + 1) t.me.tmp := by
  obtain h2 | h3 | h4 | h5 : s.mu ≤ 2 ∨ s.mu = 3 ∨ s.mu = 4 ∨ 5 ≤ s.mu := by omega
  · exact ⟨fun hw => absurd (four_le_of_loaded (.inl hw)) (by omega), fun hr => absurd (four_le_of_loaded (.inr hr)) (by omega)⟩
  · obtain rfl := Host.Outcome.next.inj ((exec_of_atMu_three hargs (atMu_of_mu h3 (by decide))).symm.trans hx)
    rw [h3]
    unfold loadedSound wLoaded rLoaded firstLoad
    cases Config.snapOrder with
    | wFirst => simp [hW]
    | rFirst => simp [hR]
  · obtain ⟨hsw, hsr⟩ := exec_loads_of_atMu_four hargs (atMu_of_mu h4 (by decide)) hx
    have hold := h (by have := five_le_storeMu i s.me.tmp; omega)
    rw [h4] at hold ⊢
    unfold loadedSound at hold ⊢
    rw [hsw, hsr]
    revert hold
    unfold wLoaded rLoaded secondLoad
    cases Config.snapOrder with
    | wFirst => simp [hR]
    | rFirst => simp [hW]
  · have hsame := exec_sameSnapshot hargs h5 hx
    rw [storeMu_of_sameSnapshot hsame] at hstore
    obtain ⟨hw, hr⟩ := h (by omega)
    obtain ⟨hsw, hsr, -⟩ := hsame
    obtain ⟨hwl, hrl⟩ := loaded_of_five_le h5
    exact ⟨fun _ => hsw ▸ hw hwl, fun _ => hsr ▸ hr hrl⟩

theorem exec_ring_same {ok : Bool} (hargs : argsOk i = some ok) (hx : exec i s = .next t)
    (hstore : s.mu + 1 ≤ storeMu i t.me.tmp) : sameBinding s t ∧ sameIndices s t := by
  obtain hsame | ⟨-, hk, ht⟩ | ⟨-, hk, ht⟩ | ⟨-, ⟨⟨_, _, rfl⟩ | rfl, -⟩ | ⟨rfl, -⟩⟩ := exec_ring_cases hx
  · exact hsame
  · rw [ht, storeMu_of_sameSnapshot (storeWpos_sameSnapshot s)] at hstore
    omega
  · rw [ht, storeMu_of_sameSnapshot (storeRpos_sameSnapshot s)] at hstore
    omega
  all_goals cases hargs

/-- A command keeps its own snapshot sound until its index store, as far as what it loads is. -/
theorem snapshotSound_exec {W R : State → Nat → Prop} {k : Nat} (hcmds : ∀ j, cmds j → ∃ ok, argsOk j = some ok)
    (hcongr : ∀ s t, sameBinding s t → sameIndices s t → W t = W s ∧ R t = R s) (hW : W s s.wpos) (hR : R s s.rpos)
    (hp : s.me.phase = .run k) (hd : decode s.me.packet = .ok i) (hx : exec i s = .next t)
    (h : snapshotSound cmds (W s) (R s) s.me) : snapshotSound cmds (W t) (R t) t.me := by
  intro k' j hk' hj hc hstore
  obtain ⟨-, hops, -⟩ := exec_surroundings hx
  obtain rfl : i = j := by
    rw [packet_of_sameOperands hops, hd] at hj
    exact Except.ok.inj hj
  have hmu : s.mu = k := mu_of_atMu hp
  obtain rfl : k' = s.mu + 1 := by
    obtain hidle | hnext := exec_phase hx
    · simp [hidle] at hk'
    · simp [hnext, hp, Phase.succ] at hk'
      omega
  obtain ⟨ok, hargs⟩ := hcmds i hc
  obtain ⟨hbinding, hindices⟩ := exec_ring_same hargs hx hstore
  obtain ⟨eW, eR⟩ := hcongr s t hbinding hindices
  rw [eW, eR]
  exact loadedSound_exec hargs hx hW hR hstore fun hle => h s.mu i (hmu ▸ hp) hd hc hle

end Snapshot

theorem producer_congr (s t : State) (hbinding : sameBinding s t) (hindices : sameIndices s t) :
    isWpos t = isWpos s ∧ freeSafe t = freeSafe s := by
  obtain ⟨-, -, hcap⟩ := hbinding
  obtain ⟨hw, hr⟩ := hindices
  constructor
  · funext w
    rw [isWpos, isWpos, hw]
  · funext r
    rw [freeSafe, freeSafe, hw, hr, hcap]

theorem consumer_congr (s t : State) (hbinding : sameBinding s t) (hindices : sameIndices s t) :
    usedSafe t = usedSafe s ∧ isRpos t = isRpos s := by
  obtain ⟨-, -, hcap⟩ := hbinding
  obtain ⟨hw, hr⟩ := hindices
  constructor
  · funext w
    rw [usedSafe, usedSafe, hw, hr, hcap]
  · funext r
    rw [isRpos, isRpos, hr]

theorem argsOk_of_movesWpos (i : Instr) (hi : MovesWpos i) : ∃ ok, argsOk i = some ok := by
  obtain ⟨_, _, rfl⟩ | ⟨_, rfl⟩ := hi <;> exact ⟨_, rfl⟩

theorem argsOk_of_consumerOnly (i : Instr) (hi : consumerOnly i = true) : ∃ ok, argsOk i = some ok := by
  cases i with
  | read | peek | skip => exact ⟨_, rfl⟩
  | _ => cases hi

/-! ### The two snapshots over a step of the machine -/

section Step

variable {s t : State} (hinv : Inv s) (hroles : Roles s) (hsound : Conservative s) (h : step s = .next t)
include hinv hroles hsound h

/-- The consumer only adds to the free space (R135). -/
theorem producerSound_step : producerSound t t.portP := by
  have hold := (producerSound_iff s s.portP).mp hsound.1
  rw [producerSound_iff]
  cases portCase_of_step h .P with
  | idle hidle => exact snapshotSound_of_mu_le (by rw [show t.portP.phase = .idle from hidle]; decide)
  | issued pk _ ht => exact snapshotSound_of_mu_le (by rw [show t.portP = _ from ht]; exact (by decide : 1 ≤ 3))
  | ran k i _ hp hd hx =>
    obtain ⟨hme, -⟩ := exec_onTurn_ports hx
    rw [show t.portP = t.me from hme]
    exact snapshotSound_exec (s := s.onTurn .P) argsOk_of_movesWpos producer_congr rfl (Nat.le_refl _) (onTurn_me s .P ▸ hp) (onTurn_me s .P ▸ hd) hx hold
  | kept hturn ht =>
    rw [show t.portP = s.portP from ht]
    cases ringCase_of_step hinv hroles hsound h with
    | same hbinding hindices =>
      obtain ⟨eW, eR⟩ := producer_congr s t hbinding hindices
      rwa [eW, eR]
    | produce k i hturn' => exact absurd hturn' hturn
    | consume k i _ hp hd hi hstore hb hr hn =>
      have hw : t.wpos = s.wpos := by simp [hstore, storeRpos]
      have hcap : t.cap = s.cap := by simp [hstore, storeRpos]
      obtain ⟨-, hwlt, hrlt, -⟩ := hinv.1 hb
      refine snapshotSound_mono hold (fun w hw' => hw'.trans hw.symm) fun r hle => ?_
      have hused := usedSpace_adv_read hwlt hrlt hn
      have hgrown : freeSpace s.wpos s.rpos s.cap ≤ freeSpace s.wpos (adv s.rpos s.portC.tmp.n s.cap) s.cap := by
        unfold freeSpace
        omega
      rw [freeSafe, hw, hcap, hr]
      exact hle.trans hgrown
    | empty i hturn' => exact absurd hturn' hturn
    | unbind p hturn' hquiet =>
      cases p with
      | P => exact absurd hturn' hturn
      | C => exact snapshotSound_of_mu_le (hquiet.trans (by decide))
    | hwReset _ hreset =>
      rw [← show t.portP = s.portP from ht, hreset]
      exact snapshotSound_of_mu_le (Nat.zero_le 3)

/-- The producer only adds to the used space (R135). -/
theorem consumerSound_step : consumerSound t t.portC := by
  have hold := (consumerSound_iff s s.portC).mp hsound.2
  rw [consumerSound_iff]
  cases portCase_of_step h .C with
  | idle hidle => exact snapshotSound_of_mu_le (by rw [show t.portC.phase = .idle from hidle]; decide)
  | issued pk _ ht => exact snapshotSound_of_mu_le (by rw [show t.portC = _ from ht]; exact (by decide : 1 ≤ 3))
  | ran k i _ hp hd hx =>
    obtain ⟨hme, -⟩ := exec_onTurn_ports hx
    rw [show t.portC = t.me from hme]
    exact snapshotSound_exec (s := s.onTurn .C) argsOk_of_consumerOnly consumer_congr (Nat.le_refl _) rfl (onTurn_me s .C ▸ hp) (onTurn_me s .C ▸ hd) hx hold
  | kept hturn ht =>
    rw [show t.portC = s.portC from ht]
    cases ringCase_of_step hinv hroles hsound h with
    | same hbinding hindices =>
      obtain ⟨eW, eR⟩ := consumer_congr s t hbinding hindices
      rwa [eW, eR]
    | produce k i _ hp hd hi hstore hb hw hn =>
      have hr : t.rpos = s.rpos := by simp [hstore, storeWpos]
      have hcap : t.cap = s.cap := by simp [hstore, storeWpos]
      obtain ⟨-, hwlt, hrlt, -⟩ := hinv.1 hb
      refine snapshotSound_mono hold (fun w hle => ?_) fun r hr' => hr'.trans hr.symm
      have hused := usedSpace_adv_write hwlt hrlt hn
      rw [usedSafe, hr, hcap, hw, hused]
      exact Nat.le_add_right_of_le hle
    | consume k i hturn' => exact absurd hturn' hturn
    | empty i _ _ _ hquiet => exact snapshotSound_of_mu_le (hquiet.trans (by decide))
    | unbind p hturn' hquiet =>
      cases p with
      | P => exact snapshotSound_of_mu_le (hquiet.trans (by decide))
      | C => exact absurd hturn' hturn
    | hwReset _ hreset =>
      rw [← show t.portC = s.portC from ht, hreset]
      exact snapshotSound_of_mu_le (Nat.zero_le 3)

end Step

/-- Settles O54: both ports are idle after reset. -/
theorem snapshotsSoundAtReset : Obligations.SnapshotsSoundAtReset := by
  intro ws
  refine ⟨fun p i hrun => absurd ?_ hrun, ?_, ?_⟩
  · cases p <;> rfl
  · exact (producerSound_iff _ _).mpr (snapshotSound_of_mu_le (Nat.zero_le 3))
  · exact (consumerSound_iff _ _).mpr (snapshotSound_of_mu_le (Nat.zero_le 3))

/-- Settles O55: each port's own loads are of live indices, and the other port's index store can only be in its favour. -/
theorem snapshotsStayConservative : Obligations.SnapshotsStayConservative := fun _ _ hinv hroles hsound hturn h =>
  ⟨roles_kept hroles hturn h, producerSound_step hinv hroles hsound h, consumerSound_step hinv hroles hsound h⟩

end Sys2Proof.Machine

/-! Proofs of the statements about the bytes of the ring: where the copies in flight store and load, and what they have
copied (spec/20_memory.md section 4, spec/42_copy.md sections 1 and 5). -/

namespace Sys2Proof.Machine

/-! ### The addresses of a copy in flight -/

/-- WRITE, READ or PEEK. -/
def CopiesBytes (i : Instr) : Prop :=
  (∃ p len, i = .write p len) ∨ (∃ p len, i = .read p len) ∨ (∃ p len skip, i = .peek p len skip)

/-- READ or PEEK. -/
def CopiesOut (i : Instr) : Prop := (∃ p len, i = .read p len) ∨ (∃ p len skip, i = .peek p len skip)

theorem CopiesOut.copiesBytes {i : Instr} (h : CopiesOut i) : CopiesBytes i := .inr h

/-- The region index a copy starts at (R141 to R143). -/
def ringStart (i : Instr) (u : Temps) : Nat :=
  match i with
  | .write _ _ => u.sw
  | .read _ _ => u.sr
  | .peek _ _ skip => adv u.sr skip u.cap
  | _ => 0

/-- The address of the ring's byte `j` of a copy. -/
def ringAddr (i : Instr) (u : Temps) (j : Nat) : Nat := u.b + adv (ringStart i u) j u.cap

/-- The address a copy loads its byte `j` from. -/
def srcAddr (i : Instr) (u : Temps) : Nat → Nat :=
  match i with
  | .write p _ => bufAddr p
  | i => ringAddr i u

/-- The address a copy stores its byte `j` to. -/
def dstAddr (i : Instr) (u : Temps) : Nat → Nat :=
  match i with
  | .write p len => ringAddr (.write p len) u
  | i => bufAddr (callerBuffer i)

theorem addrs_of_sameSnapshot {u v : Temps} (hb : v.b = u.b) (hc : v.cap = u.cap) (h : sameSnapshot u v) (i : Instr) :
    srcAddr i v = srcAddr i u ∧ dstAddr i v = dstAddr i u := by
  obtain ⟨hsw, hsr, -⟩ := h
  have hstart : ringStart i v = ringStart i u := by cases i <;> simp [ringStart, hsw, hsr, hc]
  have hring : ringAddr i v = ringAddr i u := by
    funext j
    rw [ringAddr, ringAddr, hstart, hb, hc]
  cases i with
  | write => exact ⟨rfl, hring⟩
  | _ => exact ⟨hring, rfl⟩

section InFlight

variable {s : State} {i : Instr} (r : Running s i) (hi : CopiesBytes i) (h5 : 5 ≤ s.mu)
include r hi h5

/-- From `μ5` on a copy has its plan, on the binding it latched. -/
theorem copy_latched : s.bound = true ∧ s.me.tmp.b = s.base ∧ s.me.tmp.cap = s.cap ∧
    copyOk s.widths.memSize 2 s.mu (callerBuffer i) (ringStart i s.me.tmp) s.me.tmp := by
  obtain ⟨hb, hbase, hcap, hprogress⟩ := r.latched (by omega)
  refine ⟨hb, hbase, hcap, ?_⟩
  obtain ⟨p, len, rfl⟩ | ⟨p, len, rfl⟩ | ⟨p, len, skip, rfl⟩ := hi
  · obtain ⟨-, -, hloop⟩ := hprogress
    exact (hloop h5).2
  · obtain ⟨-, -, hloop⟩ := hprogress
    exact (hloop h5).2
  · obtain ⟨-, -, hloop⟩ := hprogress
    obtain ⟨-, -, hs0, hn, hs, hlt, hc1, hfits, hov, hcursor⟩ := hloop h5
    rw [hs0] at hs hc1
    exact ⟨hn, hs, hlt, hc1, hfits, hov, hcursor.imp_right fun ⟨he, hlo, hhi⟩ => ⟨he, hlo, by omega⟩⟩

theorem loadAddr_of_rd (hst : s.copyStage = .rd) : loadAddr i s = some (srcAddr i s.me.tmp s.me.tmp.i) := by
  obtain ⟨-, -, -, hcopy⟩ := copy_latched r hi h5
  have hring := regionAddr_eq hcopy (copyStage_rd hst).1
  have hstart := r.latched (by omega)
  obtain ⟨p, len, rfl⟩ | ⟨p, len, rfl⟩ | ⟨p, len, skip, rfl⟩ := hi
  · simp [loadAddr, h5, hst, srcAddr, State.callerAddr]
  · exact (if_pos ⟨h5, hst⟩).trans (congrArg some hring)
  · obtain ⟨-, -, -, -, -, hloop⟩ := hstart
    obtain ⟨-, -, hs0, -⟩ := hloop h5
    exact (if_pos ⟨h5, hst⟩).trans (hs0 ▸ congrArg some hring)

theorem storeAddr_of_wr (hst : s.copyStage = .wr) : storeAddr i s = some (dstAddr i s.me.tmp s.me.tmp.i) := by
  obtain ⟨-, -, -, hcopy⟩ := copy_latched r hi h5
  have hring := regionAddr_eq hcopy (copyStage_wr hst).1
  obtain ⟨p, len, rfl⟩ | ⟨p, len, rfl⟩ | ⟨p, len, skip, rfl⟩ := hi
  · exact (if_pos ⟨h5, hst⟩).trans (congrArg some hring)
  · simp [storeAddr, h5, hst, dstAddr, State.callerAddr, callerBuffer]
  · simp [storeAddr, h5, hst, dstAddr, State.callerAddr, callerBuffer]

end InFlight

theorem copyStage_of_loadAddr {s : State} {i : Instr} {x : Nat} (h : loadAddr i s = some x) :
    CopiesBytes i ∧ 5 ≤ s.mu ∧ s.copyStage = .rd := by
  cases i with
  | write p len =>
    simp only [loadAddr, Option.ite_none_right_eq_some] at h
    exact ⟨.inl ⟨_, _, rfl⟩, h.1⟩
  | read p len =>
    simp only [loadAddr, Option.ite_none_right_eq_some] at h
    exact ⟨.inr (.inl ⟨_, _, rfl⟩), h.1⟩
  | peek p len skip =>
    simp only [loadAddr, Option.ite_none_right_eq_some] at h
    exact ⟨.inr (.inr ⟨_, _, _, rfl⟩), h.1⟩
  | _ => cases h

theorem copyStage_of_storeAddr {s : State} {i : Instr} {x : Nat} (h : storeAddr i s = some x) :
    CopiesBytes i ∧ 5 ≤ s.mu ∧ s.copyStage = .wr := by
  cases i with
  | write p len =>
    simp only [storeAddr, Option.ite_none_right_eq_some] at h
    exact ⟨.inl ⟨_, _, rfl⟩, h.1⟩
  | read p len =>
    simp only [storeAddr, Option.ite_none_right_eq_some] at h
    exact ⟨.inr (.inl ⟨_, _, rfl⟩), h.1⟩
  | peek p len skip =>
    simp only [storeAddr, Option.ite_none_right_eq_some] at h
    exact ⟨.inr (.inr ⟨_, _, _, rfl⟩), h.1⟩
  | _ => cases h

/-- What a copy loads is byte `i` of its source, at `μ(5 + 2i)`. -/
theorem loadAddr_eq {s : State} {i : Instr} {x : Nat} (r : Running s i) (h : loadAddr i s = some x) :
    s.me.tmp.i < s.me.tmp.n ∧ s.mu = 5 + 2 * s.me.tmp.i ∧ x = srcAddr i s.me.tmp s.me.tmp.i := by
  obtain ⟨hi, h5, hst⟩ := copyStage_of_loadAddr h
  obtain ⟨hlt, hmu⟩ := copyStage_rd hst
  exact ⟨hlt, hmu, Option.some.inj (h.symm.trans (loadAddr_of_rd r hi h5 hst))⟩

/-- What a copy stores to is byte `i` of its destination, at `μ(6 + 2i)`. -/
theorem storeAddr_eq {s : State} {i : Instr} {x : Nat} (r : Running s i) (h : storeAddr i s = some x) :
    s.me.tmp.i < s.me.tmp.n ∧ s.mu = 6 + 2 * s.me.tmp.i ∧ x = dstAddr i s.me.tmp s.me.tmp.i := by
  obtain ⟨hi, h5, hst⟩ := copyStage_of_storeAddr h
  obtain ⟨hlt, hmu⟩ := copyStage_wr hst
  exact ⟨hlt, hmu, Option.some.inj (h.symm.trans (storeAddr_of_wr r hi h5 hst))⟩

/-! ### The ranges, by the live indices -/

theorem usedSpace_adv_self {r j N : Nat} (hr : r < N) (hj : j < N) : usedSpace (adv r j N) r N = j := by
  unfold usedSpace adv
  split_ifs <;> omega

/-- Where the command of a port in flight can be. -/
theorem latched_of_inv {s : State} {p : Port} {k : Nat} {i : Instr} (hinv : Inv s) (hp : (s.port p).phase = .run k)
    (hd : decode (s.port p).packet = .ok i) : Running { s with cur := p } i ∧ State.mu { s with cur := p } = k := by
  have h' : InvAt { s with cur := p } := (inv_iff_invAt _).mp hinv
  exact ⟨running_of_portOk h'.me (by simpa using hp) (by simpa using hd), mu_of_atMu (withCur_atMu hp)⟩

theorem phase_of_runs {s : State} {p : Port} {i : Instr} (h : s.runs p i) :
    ∃ k, (s.port p).phase = .run k ∧ decode (s.port p).packet = .ok i := by
  obtain ⟨hrun, hd⟩ := h
  cases hp : (s.port p).phase with
  | idle => exact absurd hp hrun
  | run k => exact ⟨k, rfl, hd⟩

/-- How many bytes past the oldest one a READ or PEEK starts. -/
def skipOf (i : Instr) : Nat :=
  match i with
  | .peek _ _ skip => skip
  | _ => 0

/-- The bytes a READ or PEEK in flight copies are inside the used range, by the live indices, until its index store. -/
theorem out_range {s : State} {k : Nat} {i : Instr} (hinv : Inv s) (hsound : consumerSound s s.portC)
    (hp : s.portC.phase = .run k) (hd : decode s.portC.packet = .ok i) (hi : CopiesOut i) (h5 : 5 ≤ k)
    (hk : k ≤ 5 + 2 * s.portC.tmp.n) : skipOf i + s.portC.tmp.n ≤ usedSpace s.wpos s.rpos s.cap ∧
      ∀ j, j < s.portC.tmp.n → srcAddr i s.portC.tmp j = s.base + adv s.rpos (skipOf i + j) s.cap := by
  obtain ⟨r, hmu⟩ := latched_of_inv (p := .C) hinv hp hd
  obtain ⟨hb, hbase, hcap, hprogress⟩ := r.latched (by omega)
  obtain ⟨-, hwlt, hrlt, -⟩ := hinv.1 hb
  have hlt := usedSpace_lt hwlt hrlt
  rw [withCur_me, hmu] at hprogress
  rw [withCur_me] at hbase hcap
  simp only [State.port] at hbase hcap hprogress
  have hlive : s.portC.tmp.sr = s.rpos ∧ s.portC.tmp.usedSpace ≤ usedSpace s.wpos s.rpos s.cap := by
    have hmuLe : consumerOnly i = true ∧ k ≤ storeMu i s.portC.tmp := by
      obtain ⟨_, _, rfl⟩ | ⟨_, _, _, rfl⟩ := hi <;> exact ⟨rfl, hk⟩
    obtain ⟨hr, hw⟩ := hsound k i hp hd hmuLe.1 hmuLe.2
    have hsr := hr (loaded_of_five_le h5).2
    rw [Temps.usedSpace, hsr, hcap]
    exact ⟨rfl, hw (loaded_of_five_le h5).1⟩
  obtain ⟨hsr, hle⟩ := hlive
  obtain ⟨p, len, rfl⟩ | ⟨p, len, skip, rfl⟩ := hi
  · obtain ⟨-, -, hloop⟩ := hprogress
    obtain ⟨hn, -⟩ := hloop h5
    refine ⟨by simp only [skipOf]; omega, fun j hj => ?_⟩
    simp [srcAddr, ringAddr, ringStart, skipOf, hbase, hcap, hsr]
  · obtain ⟨-, -, hloop⟩ := hprogress
    obtain ⟨hskip, hn, -⟩ := hloop h5
    refine ⟨by simp only [skipOf]; omega, fun j hj => ?_⟩
    simp only [srcAddr, ringAddr, ringStart, skipOf, hbase, hcap, hsr]
    rw [adv_adv hrlt (by omega)]

/-- Settles O56: until the index store the producer's bytes are past the used ones and within the free ones, the
consumer's among the used ones. -/
theorem copiesStayInTheirRanges : Obligations.CopiesStayInTheirRanges := by
  intro s hinv hroles hsound
  refine ⟨fun src len x hruns hx => ?_, fun i x hruns hi hx => ?_⟩
  · obtain ⟨k, hp, hd⟩ := phase_of_runs hruns
    obtain ⟨r, hmu⟩ := latched_of_inv hinv hp hd
    obtain ⟨hlt, hk, rfl⟩ := storeAddr_eq r hx
    obtain ⟨hb, hbase, hcap, -⟩ := copy_latched r (.inl ⟨_, _, rfl⟩) (by omega)
    obtain ⟨-, hwlt, hrlt, -⟩ := hinv.1 hb
    rw [hmu] at hk
    rw [withCur_me] at hlt hk hbase hcap ⊢
    simp only [State.port] at hlt hk hbase hcap ⊢
    obtain ⟨hsw, hn⟩ := clamp_of_producerSound hinv hsound.1 hp hd (.inl ⟨_, _, rfl⟩) (by omega)
      (by simp only [storeMu]; omega)
    have hfree := usedSpace_add_freeSpace hwlt hrlt
    have hused := usedSpace_adv_write hwlt hrlt (by omega : s.portP.tmp.i ≤ freeSpace s.wpos s.rpos s.cap)
    refine ⟨adv s.wpos s.portP.tmp.i s.cap, ?_, adv_lt hwlt (by omega), by omega, by omega⟩
    simp [dstAddr, ringAddr, ringStart, hbase, hcap, hsw]
  · obtain ⟨k, hp, hd⟩ := phase_of_runs hruns
    obtain ⟨r, hmu⟩ := latched_of_inv hinv hp hd
    obtain ⟨hlt, hk, rfl⟩ := loadAddr_eq r hx
    obtain ⟨hb, -⟩ := r.latched (by omega)
    obtain ⟨-, hwlt, hrlt, -⟩ := hinv.1 hb
    rw [hmu] at hk
    rw [withCur_me] at hlt hk ⊢
    simp only [State.port] at hlt hk ⊢
    obtain ⟨hn, haddr⟩ := out_range hinv hsound.2 hp hd hi (by omega) (by omega)
    have hused := usedSpace_lt hwlt hrlt
    refine ⟨adv s.rpos (skipOf i + s.portC.tmp.i) s.cap, haddr _ hlt, adv_lt hrlt (by omega), ?_⟩
    rw [usedSpace_adv_self hrlt (by omega)]
    omega

end Sys2Proof.Machine

namespace Sys2Proof.Machine

/-! ### The stores of a step -/

/-- Memory changes by the one store of the step. -/
theorem step_mem_cases {s t : State} (h : step s = .next t) :
    t.mem = s.mem ∨ ∃ x v, stepStores s x ∧ t.mem = s.mem.store x v := by
  cases stepCase_of_step h with
  | issue p q hturn ht =>
    left
    obtain ⟨-, e⟩ | ⟨-, e⟩ := issue_cases p q s.tookTurn <;> simp [ht, e]
  | exec p k i hturn hp hd hx =>
    obtain hmem | ⟨x, hstore, hmem⟩ := exec_mem_cases hx
    · exact .inl hmem
    · exact .inr ⟨x, _, .inr ⟨p, i, hturn, runs_of_phase hp hd, hstore⟩, hmem⟩
  | illegal p e hturn hp hd ht => exact .inl (by simp [ht])
  | idle p hturn hp ht => exact .inl (by simp [ht])
  | outsideWrite a v hturn ht => exact .inr ⟨_, v, .inl ⟨a, v, hturn, rfl⟩, by rw [ht]; rfl⟩
  | outsideRead a hturn ht => exact .inl (by simp [ht])
  | hwReset hturn ht => exact .inl (by rw [ht]; rfl)

/-- A copy's destination is no byte of its source. -/
theorem dstAddr_ne_srcAddr {size extra k : Nat} {i : Instr} {u : Temps} (hi : CopiesBytes i)
    (h : copyOk size extra k (callerBuffer i) (ringStart i u) u) {j l : Nat} (hj : j < u.n) (hl : l < u.n) :
    dstAddr i u j ≠ srcAddr i u l := by
  obtain ⟨-, hs, hlt, -, -, hov, -⟩ := h
  have hring {m : Nat} (hm : m < u.n) : adv (ringStart i u) m u.cap < u.cap := adv_lt hs (by omega)
  obtain ⟨p, len, rfl⟩ | ⟨p, len, rfl⟩ | ⟨p, len, skip, rfl⟩ := hi
  · exact (caller_ne_region hov hl (hring hj)).symm
  · exact caller_ne_region hov hj (hring hl)
  · exact caller_ne_region hov hj (hring hl)

section Stores

variable {s : State} (hinv : Inv s) (hroles : Roles s) (hsound : Conservative s) (hu : Usable s)
  (hout : ∀ a v, s.turn = .outsideWrite a v → ¬ inRegion s (a % s.widths.memSize))

include hinv hroles hout in
/-- Nobody but the producer's WRITE stores into the region (R228, R69). -/
theorem not_inRegion_of_stepStores {x : Nat} (hx : stepStores s x) (hturn : s.turn ≠ .run .P) : ¬ inRegion s x := by
  obtain ⟨a, v, ha, rfl⟩ | ⟨p, i, hrun, hruns, hstore⟩ := hx
  · exact hout a v ha
  · obtain rfl : p = .C := by
      cases p with
      | P => exact absurd hrun hturn
      | C => rfl
    obtain ⟨k, hp, hd⟩ := phase_of_runs hruns
    have r := running_onTurn hinv hp hd
    have hstore : storeAddr i (s.onTurn .C) = some x := hstore
    obtain ⟨hi, h5, -⟩ := copyStage_of_storeAddr hstore
    obtain ⟨hlt, -, rfl⟩ := storeAddr_eq r hstore
    obtain ⟨-, hbase, hcap, -, -, -, -, -, hov, -⟩ := copy_latched r hi h5
    rw [onTurn_me] at hlt hbase hcap hov ⊢
    have hdst : dstAddr i (s.port .C).tmp = bufAddr (callerBuffer i) := by
      obtain ⟨_, _, rfl⟩ | ⟨_, _, rfl⟩ | ⟨_, _, _, rfl⟩ := hi
      · cases hroles .C _ hruns.1 hd
      · rfl
      · rfl
    have hbase : (s.port .C).tmp.b = s.base := hbase
    have hcap : (s.port .C).tmp.cap = s.cap := hcap
    rw [hbase, hcap] at hov
    rw [hdst]
    rintro ⟨hlo, hhi⟩
    refine caller_ne_region hov hlt (x := bufAddr (callerBuffer i) (s.port .C).tmp.i - s.base) (by omega) ?_
    unfold bufAddr at hlo ⊢
    omega

include hinv hroles hsound hu hout in
/-- Nobody stores into the used range (R66). -/
theorem stepStores_ne_used {x : Nat} (hx : stepStores s x) {j : Nat} (hj : j < usedSpace s.wpos s.rpos s.cap) :
    x ≠ s.base + adv s.rpos j s.cap := by
  obtain ⟨-, hwlt, hrlt, -⟩ := hu
  have hused := usedSpace_lt hwlt hrlt
  have hlt : adv s.rpos j s.cap < s.cap := adv_lt hrlt (by omega)
  rintro rfl
  by_cases hturn : s.turn = .run .P
  · obtain ⟨a, v, ha, -⟩ | ⟨p, i, hrun, hruns, hstore⟩ := hx
    · cases hturn.symm.trans ha
    · obtain rfl := Turn.run.inj (hturn.symm.trans hrun)
      obtain ⟨hi, -⟩ := copyStage_of_storeAddr hstore
      obtain ⟨p, len, rfl⟩ : ∃ p len, i = .write p len := by
        have hrole := hroles .P i hruns.1 hruns.2
        obtain hw | ⟨_, _, rfl⟩ | ⟨_, _, _, rfl⟩ := hi
        · exact hw
        · cases hrole
        · cases hrole
      obtain ⟨hrange, -⟩ := copiesStayInTheirRanges s.tookTurn hinv hroles hsound
      obtain ⟨l, hl, -, hfree, -⟩ := hrange p len _ hruns hstore
      obtain rfl : adv s.rpos j s.cap = l := Nat.add_left_cancel hl
      have hdist : usedSpace s.wpos s.rpos s.cap ≤ usedSpace (adv s.rpos j s.cap) s.rpos s.cap := hfree
      rw [usedSpace_adv_self hrlt (by omega)] at hdist
      omega
  · exact not_inRegion_of_stepStores hinv hroles hout hx hturn ⟨by omega, by omega⟩

end Stores

/-! ### The contents of the ring -/

/-- Byte `j` of the contents, as `content` lists it. -/
def ringByte (s : State) (j : Nat) : Byte := s.mem.load (s.base + adv s.rpos j s.cap)

theorem content_eq (s : State) : content s = (List.range (usedSpace s.wpos s.rpos s.cap)).map (ringByte s) := rfl

theorem content_length (s : State) : (content s).length = usedSpace s.wpos s.rpos s.cap := by simp [content_eq]

/-- A step that keeps the binding and the indices keeps the contents. -/
theorem content_of_same {s t : State} (hinv : Inv s) (hroles : Roles s) (hsound : Conservative s) (hu : Usable s)
    (hout : ∀ a v, s.turn = .outsideWrite a v → ¬ inRegion s (a % s.widths.memSize)) (h : step s = .next t)
    (hbinding : sameBinding s t) (hindices : sameIndices s t) : content t = content s := by
  obtain ⟨-, hbase, hcap⟩ := hbinding
  obtain ⟨hw, hr⟩ := hindices
  rw [content_eq, content_eq, hw, hr, hcap]
  refine List.map_congr_left fun j hj => ?_
  rw [ringByte, ringByte, hbase, hr, hcap]
  obtain hmem | ⟨x, v, hx, hmem⟩ := step_mem_cases h
  · rw [hmem]
  · rw [hmem, load_store_other _ _ (stepStores_ne_used hinv hroles hsound hu hout hx (List.mem_range.mp hj)).symm]

/-- `n` more used bytes are `n` bytes more at the end. -/
theorem content_of_wpos {s t : State} {n : Nat} (hbase : t.base = s.base) (hcap : t.cap = s.cap) (hr : t.rpos = s.rpos)
    (hmem : t.mem = s.mem) (hused : usedSpace t.wpos t.rpos t.cap = usedSpace s.wpos s.rpos s.cap + n) :
    ∃ bs, content t = content s ++ bs ∧ bs.length = n := by
  have hbyte : ringByte t = ringByte s := by
    funext j
    rw [ringByte, ringByte, hmem, hbase, hcap, hr]
  refine ⟨((List.range n).map (usedSpace s.wpos s.rpos s.cap + ·)).map (ringByte s), ?_, by simp⟩
  rw [content_eq, content_eq, hused, List.range_add, List.map_append, hbyte]

/-- Moving the read index on by `n` used bytes drops the `n` oldest. -/
theorem content_of_rpos {s t : State} {n : Nat} (hrlt : s.rpos < s.cap) (hn : n ≤ usedSpace s.wpos s.rpos s.cap)
    (hlt : usedSpace s.wpos s.rpos s.cap < s.cap) (hbase : t.base = s.base) (hcap : t.cap = s.cap)
    (hr : t.rpos = adv s.rpos n s.cap) (hmem : t.mem = s.mem)
    (hused : usedSpace t.wpos t.rpos t.cap = usedSpace s.wpos s.rpos s.cap - n) : content t = (content s).drop n := by
  have hsplit : content s = (List.range n).map (ringByte s) ++
      ((List.range (usedSpace s.wpos s.rpos s.cap - n)).map (n + ·)).map (ringByte s) := by
    rw [content_eq, ← List.map_append, ← List.range_add, Nat.add_sub_cancel' hn]
  rw [hsplit, List.drop_left' (by simp), content_eq, hused, List.map_map]
  refine List.map_congr_left fun j hj => ?_
  have hj := List.mem_range.mp hj
  rw [Function.comp, ringByte, ringByte, hmem, hbase, hcap, hr, adv_adv hrlt (by omega)]

/-- Settles O57: the used range is where nobody stores, and the indices move by the three cases of the contract. -/
theorem theRingIsAFifo : Obligations.TheRingIsAFifo := by
  intro s t hinv hroles hsound _ hb hout h htb
  have hu := hinv.1 hb
  have ⟨_, hwlt, hrlt, _⟩ := hu
  cases ringCase_of_step hinv hroles hsound h with
  | same hbinding hindices => exact .inl (content_of_same hinv hroles hsound hu hout h hbinding hindices)
  | produce k i hturn hp hd hi ht _ hw hn =>
    refine .inr (.inl ⟨hturn, ?_, ?_⟩)
    · obtain ⟨src, len, rfl⟩ | ⟨len, rfl⟩ := hi
      · exact .inl ⟨src, len, runs_of_phase hp hd⟩
      · exact .inr ⟨len, runs_of_phase hp hd⟩
    · have hr : t.rpos = s.rpos := by simp [ht, storeWpos]
      have hcap : t.cap = s.cap := by simp [ht, storeWpos]
      exact content_of_wpos (by simp [ht, storeWpos]) hcap hr (by simp [ht, storeWpos])
        (by rw [hw, hr, hcap, usedSpace_adv_write hwlt hrlt hn])
  | consume k i hturn hp hd hi ht _ hr hn =>
    refine .inr (.inr (.inl ⟨hturn, ?_, by rwa [content_length], ?_⟩))
    · obtain ⟨dst, len, rfl⟩ | ⟨len, rfl⟩ := hi
      · exact .inl ⟨dst, len, runs_of_phase hp hd⟩
      · exact .inr ⟨len, runs_of_phase hp hd⟩
    · have hw : t.wpos = s.wpos := by simp [ht, storeRpos]
      have hcap : t.cap = s.cap := by simp [ht, storeRpos]
      exact content_of_rpos hrlt hn (usedSpace_lt hwlt hrlt) (by simp [ht, storeRpos]) hcap hr (by simp [ht, storeRpos])
        (by rw [hw, hr, hcap, usedSpace_adv_read hwlt hrlt hn])
  | empty i hturn hruns hi _ hw hr =>
    refine .inr (.inr (.inr ⟨hturn, ?_, ?_⟩))
    · obtain ⟨r, cap, rfl⟩ | rfl := hi
      · exact .inl ⟨r, cap, hruns⟩
      · exact .inr hruns
    · rw [content_eq, hw, hr]
      simp [usedSpace]
  | unbind p _ _ hunbound => cases htb.symm.trans hunbound
  | hwReset _ ht =>
    rw [ht] at htb
    cases htb

end Sys2Proof.Machine

namespace Sys2Proof.Machine

/-! ### What a copy in flight has copied -/

/-- A loop at `μk` has copied its first `i` bytes from the addresses `src` to the addresses `dst` of memory, and the byte
in flight is the source's byte `i`. -/
def copiedSoFar (m : Memory) (src dst : Nat → Nat) (k : Nat) (u : Temps) : Prop :=
  (∀ j, j < u.i → m.load (dst j) = m.load (src j)) ∧ (k = 6 + 2 * u.i → u.t = m.load (src u.i))

/-- The command in flight on a port has copied so far what it should: the shape of `writeFaithful`, `readFaithful` and
`peekFaithful`, by the port's own snapshot. -/
def portFaithful (m : Memory) (x : PortRegs) : Prop :=
  ∀ k i, x.phase = .run k → decode x.packet = .ok i → CopiesBytes i → 5 ≤ k → k ≤ 5 + 2 * x.tmp.n →
    copiedSoFar m (srcAddr i x.tmp) (dstAddr i x.tmp) k x.tmp

theorem portFaithful_of_mu_le {m : Memory} {x : PortRegs} (h : x.phase.mu ≤ 4) : portFaithful m x := by
  intro k i hk _ _ h5 _
  have hk4 : k ≤ 4 := by simpa [hk, Phase.mu] using h
  omega

/-- The cursor of a copy up to its loop's end. -/
theorem cursor_le {size extra k start : Nat} {buf : Option Nat} {u : Temps} (h : copyOk size extra k buf start u)
    (hk : k ≤ 5 + 2 * u.n) : u.i ≤ u.n ∧ (k = 6 + 2 * u.i → u.i < u.n) := by
  obtain ⟨-, -, -, -, -, -, ⟨hlt, -⟩ | ⟨he, -⟩⟩ := h
  · exact ⟨hlt.le, fun _ => hlt⟩
  · exact ⟨he.le, fun _ => by omega⟩

section CopiedSoFar

variable {m : Memory} {src dst : Nat → Nat} {k : Nat} {u : Temps}

/-- Only the addresses of the copy's own bytes matter. -/
theorem copiedSoFar_congr {src' dst' : Nat → Nat} (hle : u.i ≤ u.n) (hlt : k = 6 + 2 * u.i → u.i < u.n)
    (hsrc : ∀ j, j < u.n → src j = src' j) (hdst : ∀ j, j < u.n → dst j = dst' j) :
    copiedSoFar m src dst k u ↔ copiedSoFar m src' dst' k u := by
  refine and_congr (forall₂_congr fun j hj => ?_) (forall_congr' fun hk => ?_)
  · rw [hsrc j (by omega), hdst j (by omega)]
  · rw [hsrc _ (hlt hk)]

/-- A store to none of them changes nothing. -/
theorem copiedSoFar_store {x : Nat} {v : Byte} (hle : u.i ≤ u.n) (hlt : k = 6 + 2 * u.i → u.i < u.n)
    (hx : ∀ j, j < u.n → x ≠ src j ∧ x ≠ dst j) (h : copiedSoFar m src dst k u) :
    copiedSoFar (m.store x v) src dst k u := by
  obtain ⟨hcopied, hflight⟩ := h
  constructor
  · intro j hj
    obtain ⟨hs, hd⟩ := hx j (by omega)
    rw [load_store_other _ _ hs.symm, load_store_other _ _ hd.symm, hcopied j hj]
  · intro hk
    rw [load_store_other _ _ (hx _ (hlt hk)).1.symm, hflight hk]

/-- The read of byte `i`. -/
theorem copiedSoFar_read (h : copiedSoFar m src dst k u) :
    copiedSoFar m src dst (k + 1) { u with t := m.load (src u.i) } := ⟨h.1, fun _ => rfl⟩

/-- The write of byte `i`. -/
theorem copiedSoFar_write (hk : k = 6 + 2 * u.i) (hlt : u.i < u.n)
    (hapart : ∀ j l, j < u.n → l < u.n → dst j ≠ src l) (hinj : ∀ j, j < u.i → dst j ≠ dst u.i)
    (h : copiedSoFar m src dst k u) :
    copiedSoFar (m.store (dst u.i) u.t) src dst (k + 1) { u with i := u.i + 1 } := by
  obtain ⟨hcopied, hflight⟩ := h
  refine ⟨fun j hj => ?_, fun hk' => ?_⟩
  · have hj : j < u.i + 1 := hj
    rw [load_store_other (y := src j) _ _ (hapart u.i j hlt (by omega)).symm]
    obtain hj | rfl : j < u.i ∨ j = u.i := by omega
    · rw [load_store_other _ _ (hinj j hj), hcopied j hj]
    · rw [load_store_same, hflight hk]
  · simp only at hk'
    omega

end CopiedSoFar

/-- A copy's destination has no address twice. -/
theorem dstAddr_ne {size extra k : Nat} {i : Instr} {u : Temps} (hi : CopiesBytes i)
    (h : copyOk size extra k (callerBuffer i) (ringStart i u) u) {j l : Nat} (hjl : j < l) (hl : l < u.n) :
    dstAddr i u j ≠ dstAddr i u l := by
  obtain ⟨-, -, hlt, -⟩ := h
  have hcaller : bufAddr (callerBuffer i) j ≠ bufAddr (callerBuffer i) l := by
    unfold bufAddr
    omega
  obtain ⟨p, len, rfl⟩ | ⟨p, len, rfl⟩ | ⟨p, len, skip, rfl⟩ := hi
  · intro he
    have := adv_injective (by omega) (by omega) (Nat.add_left_cancel (he : ringAddr _ u j = ringAddr _ u l))
    omega
  · exact hcaller
  · exact hcaller

/-! ### The stepping port's own copy -/

section OwnStep

variable {s t : State} {i : Instr}

theorem planCopy_i {buf : Option Nat} {n start : Nat} {u : Temps} (h : planCopy buf n start u s = .next t) :
    t.me.phase = .idle ∨ t.me.tmp.i = 0 := by
  obtain ⟨-, rfl⟩ | ⟨-, -, -, rfl⟩ := planCopy_next h <;> simp

/-- At `μ4` a copy's cursor is set to 0. -/
theorem exec_i_of_atMu_four (hi : CopiesBytes i) (h : s.atMu 4) (hx : exec i s = .next t) :
    t.me.phase = .idle ∨ t.me.tmp.i = 0 := by
  obtain ⟨p, len, rfl⟩ | ⟨p, len, rfl⟩ | ⟨p, len, skip, rfl⟩ := hi
  · exact planCopy_i ((exec_write_of_atMu_four h p len).symm.trans hx)
  · exact planCopy_i ((exec_read_of_atMu_four h p len).symm.trans hx)
  · obtain ⟨-, rfl⟩ | ⟨-, hplan⟩ := planPeek_next ((exec_peek_of_atMu_four h p len skip).symm.trans hx)
    · simp
    · exact planCopy_i hplan

theorem argsOk_of_copiesBytes (hi : CopiesBytes i) : ∃ ok, argsOk i = some ok := by
  obtain ⟨_, _, rfl⟩ | ⟨_, _, rfl⟩ | ⟨_, _, _, rfl⟩ := hi <;> exact ⟨_, rfl⟩

/-- One turn of the loop copies one byte (R140). -/
theorem copiedSoFar_exec (r : Running s i) (hi : CopiesBytes i) (h5 : 5 ≤ s.mu) (hx : exec i s = .next t)
    (hk : s.mu + 1 ≤ 5 + 2 * t.me.tmp.n) (h : copiedSoFar s.mem (srcAddr i s.me.tmp) (dstAddr i s.me.tmp) s.mu s.me.tmp) :
    copiedSoFar t.mem (srcAddr i t.me.tmp) (dstAddr i t.me.tmp) (s.mu + 1) t.me.tmp := by
  obtain ⟨-, -, -, hcopy⟩ := copy_latched r hi h5
  obtain ⟨ok, hargs⟩ := argsOk_of_copiesBytes hi
  have hsame := exec_sameSnapshot hargs h5 hx
  obtain hrd | hwr | ⟨m, -, hpost⟩ := copyOk_stage hcopy
  · rw [exec_of_loadAddr (loadAddr_of_rd r hi h5 hrd)] at hx
    obtain ⟨-, rfl⟩ := copyRead_next hx
    obtain ⟨hsrc, hdst⟩ := addrs_of_sameSnapshot (by simp) (by simp) hsame i
    rw [hsrc, hdst]
    simpa using copiedSoFar_read h
  · rw [exec_of_storeAddr (storeAddr_of_wr r hi h5 hwr)] at hx
    obtain ⟨-, rfl⟩ := copyWrite_next hx
    obtain ⟨hsrc, hdst⟩ := addrs_of_sameSnapshot (by simp) (by simp) hsame i
    obtain ⟨hlt, hmu⟩ := copyStage_wr hwr
    rw [hsrc, hdst]
    simpa using copiedSoFar_write hmu hlt (fun j l hj hl => dstAddr_ne_srcAddr hi hcopy hj hl)
      (fun j hj => dstAddr_ne hi hcopy hj hlt) h
  · obtain ⟨-, hmu⟩ := copyStage_post hpost
    obtain ⟨-, -, hn⟩ := hsame
    have hmu : s.mu = 5 + 2 * s.me.tmp.n + m := hmu
    omega

theorem portFaithful_exec {k : Nat} (r : Running s i) (hp : s.me.phase = .run k) (hd : decode s.me.packet = .ok i)
    (hx : exec i s = .next t) (h : portFaithful s.mem s.me) : portFaithful t.mem t.me := by
  intro k' j hk' hj hc h5 hle
  obtain ⟨-, hops, -⟩ := exec_surroundings hx
  obtain rfl : i = j := by
    rw [packet_of_sameOperands hops, hd] at hj
    exact Except.ok.inj hj
  have hmu : s.mu = k := mu_of_atMu hp
  obtain rfl : k' = s.mu + 1 := by
    obtain hidle | hnext := exec_phase hx
    · simp [hidle] at hk'
    · simp [hnext, hp, Phase.succ] at hk'
      omega
  obtain h4 | h5 : s.mu = 4 ∨ 5 ≤ s.mu := by omega
  · obtain hidle | hi0 := exec_i_of_atMu_four hc (atMu_of_mu h4 (by decide)) hx
    · cases hidle.symm.trans hk'
    · rw [h4]
      exact ⟨fun j hj => by omega, fun h => by omega⟩
  · obtain ⟨-, -, -, hcopy⟩ := copy_latched r hc h5
    obtain ⟨ok, hargs⟩ := argsOk_of_copiesBytes hc
    obtain ⟨-, -, hn⟩ := exec_sameSnapshot hargs h5 hx
    exact copiedSoFar_exec r hc h5 hx hle (h s.mu i (hmu ▸ hp) hd hc h5 (by omega))

end OwnStep

/-! ### The other turns -/

/-- A port whose turn it is not keeps what it has copied, if nobody stores to its source or destination. -/
theorem portFaithful_of_stores {s t : State} {p : Port} (hinv : Inv s) (h : step s = .next t)
    (hapart : ∀ x k i, stepStores s x → (s.port p).phase = .run k → decode (s.port p).packet = .ok i → CopiesBytes i →
      5 ≤ k → k ≤ 5 + 2 * (s.port p).tmp.n → ∀ j, j < (s.port p).tmp.n →
      x ≠ srcAddr i (s.port p).tmp j ∧ x ≠ dstAddr i (s.port p).tmp j)
    (hold : portFaithful s.mem (s.port p)) : portFaithful t.mem (s.port p) := by
  intro k i hp hd hi h5 hle
  have hcopied := hold k i hp hd hi h5 hle
  obtain hmem | ⟨x, v, hx, hmem⟩ := step_mem_cases h
  · rwa [hmem]
  · obtain ⟨r, hmu⟩ := latched_of_inv hinv hp hd
    obtain ⟨-, -, -, hcopy⟩ := copy_latched r hi (by omega)
    rw [withCur_me, hmu] at hcopy
    obtain ⟨hile, hilt⟩ := cursor_le hcopy hle
    rw [hmem]
    exact copiedSoFar_store hile hilt (hapart x k i hx hp hd hi h5 hle) hcopied

/-- What every step does to one port's copy. -/
theorem portFaithful_step {s t : State} {p : Port} (hinv : Inv s) (h : step s = .next t)
    (hapart : s.turn ≠ .run p → ∀ x k i, stepStores s x → (s.port p).phase = .run k → decode (s.port p).packet = .ok i →
      CopiesBytes i → 5 ≤ k → k ≤ 5 + 2 * (s.port p).tmp.n → ∀ j, j < (s.port p).tmp.n →
      x ≠ srcAddr i (s.port p).tmp j ∧ x ≠ dstAddr i (s.port p).tmp j)
    (hold : portFaithful s.mem (s.port p)) : portFaithful t.mem (t.port p) := by
  cases portCase_of_step h p with
  | idle hidle => exact portFaithful_of_mu_le (by rw [hidle]; decide)
  | issued pk _ ht => exact portFaithful_of_mu_le (by rw [ht]; exact (by decide : 1 ≤ 4))
  | ran k i hturn hp hd hx =>
    obtain ⟨hme, -⟩ := exec_onTurn_ports hx
    rw [hme]
    exact portFaithful_exec (running_onTurn hinv hp hd) (by rw [onTurn_me]; exact hp) (by rw [onTurn_me]; exact hd) hx
      (by rw [onTurn_me]; exact hold)
  | kept hturn ht =>
    rw [ht]
    exact portFaithful_of_stores hinv h (hapart hturn) hold

/-! ### By the live registers -/

theorem writeFaithful_iff {s : State} (hinv : Inv s) (hroles : Roles s) : writeFaithful s ↔ portFaithful s.mem s.portP := by
  have haddr {k : Nat} {src : Option Nat} {len : Nat} (hp : s.portP.phase = .run k)
      (hd : decode s.portP.packet = .ok (.write src len)) (h5 : 5 ≤ k) :
      dstAddr (.write src len) s.portP.tmp = fun j => s.base + adv s.portP.tmp.sw j s.cap := by
    obtain ⟨r, hmu⟩ := latched_of_inv (p := .P) hinv hp hd
    obtain ⟨-, hbase, hcap, -⟩ := r.latched (by omega)
    have hbase : s.portP.tmp.b = s.base := hbase
    have hcap : s.portP.tmp.cap = s.cap := hcap
    funext j
    rw [dstAddr, ringAddr, ringStart, hbase, hcap]
  constructor
  · intro h k i hp hd hi h5 hle
    obtain ⟨src, len, rfl⟩ | ⟨_, _, rfl⟩ | ⟨_, _, _, rfl⟩ := hi
    · rw [haddr hp hd h5]
      exact h k src len hp hd h5 hle
    · cases hroles .P _ (by rw [show (s.port .P).phase = _ from hp]; nofun) hd
    · cases hroles .P _ (by rw [show (s.port .P).phase = _ from hp]; nofun) hd
  · intro h k src len hp hd h5 hle
    have hcopied := h k _ hp hd (.inl ⟨src, len, rfl⟩) h5 hle
    rwa [haddr hp hd h5] at hcopied

/-- What a READ or PEEK has copied, by its own snapshot and by the live indices. -/
theorem copiedSoFar_out_iff {s : State} {k : Nat} {i : Instr} (hinv : Inv s) (hsound : consumerSound s s.portC)
    (hp : s.portC.phase = .run k) (hd : decode s.portC.packet = .ok i) (hi : CopiesOut i) (h5 : 5 ≤ k)
    (hk : k ≤ 5 + 2 * s.portC.tmp.n) :
    copiedSoFar s.mem (srcAddr i s.portC.tmp) (dstAddr i s.portC.tmp) k s.portC.tmp ↔
      copiedSoFar s.mem (fun j => s.base + adv s.rpos (skipOf i + j) s.cap) (bufAddr (callerBuffer i)) k s.portC.tmp := by
  obtain ⟨-, haddr⟩ := out_range hinv hsound hp hd hi h5 hk
  obtain ⟨r, hmu⟩ := latched_of_inv (p := .C) hinv hp hd
  obtain ⟨-, -, -, hcopy⟩ := copy_latched r hi.copiesBytes (by omega)
  rw [withCur_me, hmu] at hcopy
  obtain ⟨hile, hilt⟩ := cursor_le hcopy hk
  refine copiedSoFar_congr hile hilt haddr fun j _ => ?_
  obtain ⟨_, _, rfl⟩ | ⟨_, _, _, rfl⟩ := hi <;> rfl

theorem readFaithful_peekFaithful_iff {s : State} (hinv : Inv s) (hroles : Roles s) (hsound : consumerSound s s.portC) :
    (readFaithful s ∧ peekFaithful s) ↔ portFaithful s.mem s.portC := by
  have hread {k : Nat} {dst : Option Nat} {len : Nat} (hp : s.portC.phase = .run k)
      (hd : decode s.portC.packet = .ok (.read dst len)) (h5 : 5 ≤ k) (hle : k ≤ 5 + 2 * s.portC.tmp.n) :
      copiedSoFar s.mem (srcAddr (.read dst len) s.portC.tmp) (dstAddr (.read dst len) s.portC.tmp) k s.portC.tmp ↔
        copiedSoFar s.mem (fun j => s.base + adv s.rpos j s.cap) (bufAddr dst) k s.portC.tmp := by
    simpa only [skipOf, Nat.zero_add, callerBuffer] using
      copiedSoFar_out_iff hinv hsound hp hd (.inl ⟨dst, len, rfl⟩) h5 hle
  constructor
  · rintro ⟨hr, hpk⟩ k i hp hd hi h5 hle
    obtain ⟨_, _, rfl⟩ | ⟨dst, len, rfl⟩ | ⟨dst, len, skip, rfl⟩ := hi
    · cases hroles .C _ (by rw [show (s.port .C).phase = _ from hp]; nofun) hd
    · exact (hread hp hd h5 hle).mpr (hr k dst len hp hd h5 hle)
    · exact (copiedSoFar_out_iff hinv hsound hp hd (.inr ⟨dst, len, skip, rfl⟩) h5 hle).mpr
        (hpk k dst len skip hp hd h5 hle)
  · intro h
    constructor
    · intro k dst len hp hd h5 hle
      exact (hread hp hd h5 hle).mp (h k _ hp hd (.inr (.inl ⟨dst, len, rfl⟩)) h5 hle)
    · intro k dst len skip hp hd h5 hle
      exact (copiedSoFar_out_iff hinv hsound hp hd (.inr ⟨dst, len, skip, rfl⟩) h5 hle).mp
        (h k _ hp hd (.inr (.inr ⟨dst, len, skip, rfl⟩)) h5 hle)

/-! ### Nobody else stores to a copy's bytes -/

theorem bufAddr_ne {p : Option Nat} {n x : Nat} (h : ¬ inRange (ptrAddr p) n x) {j : Nat} (hj : j < n) : x ≠ bufAddr p j := by
  rintro rfl
  exact h ⟨Nat.le_add_right _ _, Nat.add_lt_add_left hj _⟩

section Apart

variable {s : State} (hinv : Inv s) (hroles : Roles s) (hsound : Conservative s) (hbuf : buffersLeftAlone s)
include hinv hroles hbuf

/-- The producer's source is its caller's, its destination in the region. -/
theorem stepStores_apart_P (hturn : s.turn ≠ .run .P) (x k : Nat) (i : Instr) (hx : stepStores s x)
    (hp : s.portP.phase = .run k) (hd : decode s.portP.packet = .ok i) (hi : CopiesBytes i) (h5 : 5 ≤ k)
    (_ : k ≤ 5 + 2 * s.portP.tmp.n) (j : Nat) (hj : j < s.portP.tmp.n) :
    x ≠ srcAddr i s.portP.tmp j ∧ x ≠ dstAddr i s.portP.tmp j := by
  obtain ⟨hsrc, -, -, hout⟩ := hbuf
  have hruns := runs_of_phase (p := .P) hp hd
  obtain ⟨r, hmu⟩ := latched_of_inv (p := .P) hinv hp hd
  obtain ⟨-, hbase, hcap, hcopy⟩ := copy_latched r hi (by omega)
  obtain ⟨src, len, rfl⟩ | ⟨_, _, rfl⟩ | ⟨_, _, _, rfl⟩ := hi
  · refine ⟨bufAddr_ne (hsrc x src len hx hturn hruns (by rw [hp]; exact h5)) hj, ?_⟩
    have hbase : s.portP.tmp.b = s.base := hbase
    have hcap : s.portP.tmp.cap = s.cap := hcap
    obtain ⟨-, hs, hlt, -⟩ := hcopy
    have hs : s.portP.tmp.sw < s.portP.tmp.cap := hs
    have hlt : s.portP.tmp.n < s.portP.tmp.cap := hlt
    rintro rfl
    refine not_inRegion_of_stepStores hinv hroles hout hx hturn ?_
    have hindex := adv_lt hs (by omega : j ≤ s.portP.tmp.cap)
    rw [hcap] at hindex
    rw [dstAddr, ringAddr, ringStart, hbase, hcap]
    exact ⟨by omega, by omega⟩
  · cases hroles .P _ hruns.1 hd
  · cases hroles .P _ hruns.1 hd

include hsound in
/-- The consumer's source is in the used range, its destination its caller's. -/
theorem stepStores_apart_C (hturn : s.turn ≠ .run .C) (x k : Nat) (i : Instr) (hx : stepStores s x)
    (hp : s.portC.phase = .run k) (hd : decode s.portC.packet = .ok i) (hi : CopiesBytes i) (h5 : 5 ≤ k)
    (hle : k ≤ 5 + 2 * s.portC.tmp.n) (j : Nat) (hj : j < s.portC.tmp.n) :
    x ≠ srcAddr i s.portC.tmp j ∧ x ≠ dstAddr i s.portC.tmp j := by
  obtain ⟨-, hread, hpeek, hout⟩ := hbuf
  have hruns := runs_of_phase (p := .C) hp hd
  have hmu5 : 5 ≤ s.portC.phase.mu := by rw [hp]; exact h5
  obtain ⟨r, hmu⟩ := latched_of_inv (p := .C) hinv hp hd
  obtain ⟨hb, -⟩ := copy_latched r hi (by omega)
  have hsrc (ho : CopiesOut i) : x ≠ srcAddr i s.portC.tmp j := by
    obtain ⟨hn, haddr⟩ := out_range hinv hsound.2 hp hd ho h5 hle
    rw [haddr j hj]
    exact stepStores_ne_used hinv hroles hsound (hinv.1 hb) hout hx (by omega)
  obtain ⟨_, _, rfl⟩ | ⟨dst, len, rfl⟩ | ⟨dst, len, skip, rfl⟩ := hi
  · cases hroles .C _ hruns.1 hd
  · exact ⟨hsrc (.inl ⟨dst, len, rfl⟩), bufAddr_ne (hread x dst len hx hturn hruns hmu5) hj⟩
  · exact ⟨hsrc (.inr ⟨dst, len, skip, rfl⟩), bufAddr_ne (hpeek x dst len skip hx hturn hruns hmu5) hj⟩

end Apart

/-- Settles O58: each port's own loop copies byte by byte, nobody else stores to its bytes, and its snapshot is the live
registers'. -/
theorem copiesInFlightAreFaithful : Obligations.CopiesInFlightAreFaithful := by
  intro s t hinv hroles hsound hturn hbuf hw hr hpk h
  obtain ⟨hinv', -⟩ := stepKeepsTheInvariant s t hinv h
  obtain ⟨hroles', hsound'⟩ := snapshotsStayConservative s t hinv hroles hsound hturn h
  rw [writeFaithful_iff hinv' hroles', readFaithful_peekFaithful_iff hinv' hroles' hsound'.2]
  exact ⟨portFaithful_step (p := .P) hinv h (stepStores_apart_P hinv hroles hbuf) ((writeFaithful_iff hinv hroles).mp hw),
    portFaithful_step (p := .C) hinv h (stepStores_apart_C hinv hroles hsound hbuf)
      ((readFaithful_peekFaithful_iff hinv hroles hsound.2).mp ⟨hr, hpk⟩)⟩

end Sys2Proof.Machine
